-- ==== Sys2Proof/Word.lean ====
section
/-! DEFINITION. The word types of the block (00_scope.md R15, R16, R17): every value is unsigned. -/
namespace Sys2Proof

/-- A byte of a frame: 8 bits, bit 7 the most significant (R17). -/
abbrev Byte := BitVec 8

/-- A 16-bit value: a holding register, a request field, the CRC register (R17, R20, R100). -/
abbrev Word := BitVec 16

/-- The transport's byte count as the core samples it: `AVAIL_W = 16` bits (R16). -/
abbrev Count := BitVec 16

/-- A millisecond time: `CLK_W = 32` bits (R15). -/
abbrev Time := BitVec 32

end Sys2Proof
end

