-- ==== Sys2Proof/Machine/Crc16.lean ====
section
/-! DEFINITION. The CRC16/Modbus generator (40_crc16.md R100 to R105): a pure function of its bytes. -/
namespace Sys2Proof.Machine

/-- One inner round of R100: shift right by one, and XOR the polynomial 0xA001 when the bit shifted out is 1. -/
def crcRound (c : Word) : Word := if c.getLsbD 0 then (c >>> 1) ^^^ 0xA001#16 else c >>> 1

/-- `n` inner rounds, one after another. -/
def crcRounds : Nat → Word → Word
  | 0, c => c
  | n + 1, c => crcRounds n (crcRound c)

/-- `crc_byte(c, b)` (R104): the body of R100's outer loop. The byte enters bits 7:0 before its 8 rounds (PRESUMED,
log 12: the spec takes the placement from general knowledge, G1). -/
def crcByte (c : Word) (b : Byte) : Word := crcRounds 8 (c ^^^ b.setWidth 16)

/-- The CRC16 of a byte sequence: initial value 0xFFFF, no final XOR (R100). -/
def crc16 (bytes : List Byte) : Word := bytes.foldl crcByte 0xFFFF#16

/-- `crc16_modbus(buf, start, length)` (R100): the CRC16 of `length` bytes of `buf` from index `start`. -/
def crc16Modbus (buf : List Byte) (start length : Nat) : Word := crc16 ((buf.drop start).take length)

/-- The CRC trailer of a payload: low byte first, then the high byte (R56, R75). -/
def crcTrailer (payload : List Byte) : List Byte :=
  [(crc16 payload).extractLsb' 0 8, (crc16 payload).extractLsb' 8 8]

end Sys2Proof.Machine
end

