-- ==== Sys2Proof/Config.lean ====
section
/-! DEFINITION. What one instance of the hardware fixes: the capacities that shape the state, and the static
configuration of 00_scope.md section 3. -/
namespace Sys2Proof

/-- `RX_MAX`: the capacity of the request buffer (R9). -/
abbrev rxMax : Nat := 32

/-- `TX_MAX`: the capacity of the response buffer (R10). -/
abbrev txMax : Nat := 8

/-- `NREG`: the number of slots of the register bank (R11). -/
abbrev nreg : Nat := 8

/-- The static configuration inputs of an instance (R6, R7, R8, R29, R43). No step changes them. -/
structure Config where
  /-- `DEV_ADDR`, the slave address (R6): OPEN in the spec, so a parameter here. -/
  devAddr : Byte
  /-- `BAUD`, the serial bit rate (R7). The core uses it only through `t35Ms`. -/
  baud : Nat
  /-- `T35_MS`, the silence threshold in whole milliseconds (R8, R43). -/
  t35Ms : Nat
deriving DecidableEq, Repr

end Sys2Proof
end

