-- ==== Sys2Proof/Machine/Params.lean ====
section
/-! DEFINITION. The constants of the Write-Multiple-Registers checks and the rules on the configuration
(00_scope.md R6 to R14). -/
namespace Sys2Proof.Machine

/-- `REG_BASE`: the register address of slot 0 (R11). -/
abbrev regBase : Nat := 0x0010

/-- The last declared register address, `REG_BASE + NREG - 1 = 0x0017`: the upper bound of check 3 (R11, R164). -/
abbrev regLast : Nat := 0x0017

/-- `QMAX`: the largest quantity check 1 admits (R12). -/
abbrev qMax : Nat := 8

/-- How many values a request with quantity `qty` gives the handler: `val[k]` is read only for `qty` within check 1's
bound (R76, R161). DEDUCED, log 8: a larger quantity carries none. -/
def valueCount (qty : Word) : Nat := if qty.toNat ≤ qMax then qty.toNat else 0

/-- `VMAX`: the largest register value check 5 admits (R13). -/
abbrev vMax : Nat := 1023

/-- `SPILL_LIMIT`: the bound of check 4, the hardware's literal 0x0017 (R14; 90_conflicts.md C1). -/
abbrev spillLimit : Nat := 0x0017

/-- `T35_MS = (38500 + BAUD - 1) div BAUD + 1` (R8). -/
def t35OfBaud (baud : Nat) : Nat := (38500 + baud - 1) / baud + 1

/-- The instance with address `dev` on a line of `baud` bits per second (R6, R7, R8). -/
def configOf (dev : Byte) (baud : Nat) : Config := { devAddr := dev, baud := baud, t35Ms := t35OfBaud baud }

/-- DESIGN CHOICE, log 1: the address of the instance that `State.reset` describes, the value of the spec's examples.
The spec leaves `DEV_ADDR` OPEN (R6), so no statement rests on this value. -/
def instanceAddr : Byte := 0x01#8

/-- The configuration of the instance that `State.reset` describes: `instanceAddr` at the default 9600 baud (R7; log 1). -/
def instanceConfig : Config := configOf instanceAddr 9600

/-- A configuration the spec admits: `DEV_ADDR` in 0x01..0xFF (R6), `BAUD` positive (R7), `T35_MS >= 1` (R8). -/
def configLegal (c : Config) : Bool := c.devAddr != 0 && decide (1 ≤ c.baud) && decide (1 ≤ c.t35Ms)

end Sys2Proof.Machine
end

