-- ==== Sys2Proof/Syntax.lean ====
section
/-! DEFINITION. The instructions: the five rows of spec/opcode_table.json. A row decodes ONE byte of a frame, the
address byte at offset 0 (R78) or the function-code byte at offset 1 (R77). -/
namespace Sys2Proof

/-- One constructor per row of the decode table. A processed frame runs one address row (stage P5 of R116) and, when
that row accepts the frame, one function row (stages P6 to P9). -/
inductive Instr where
  /-- Row WMR: function code 0x10, Write Multiple Registers, with the operands of R76. `vals` are the values the
  handler can read: `qty` of them when `qty` is at most `QMAX`, none otherwise (log 8). -/
  | wmr (start qty : Word) (bc : Byte) (vals : List Word)
  /-- Row ILLEGAL_FUNCTION: every function code `fc` other than 0x10 (R146). -/
  | illegalFunction (fc : Byte)
  /-- Row ACCEPT_BROADCAST: address byte 0x00 (R131). -/
  | acceptBroadcast
  /-- Row ACCEPT_UNICAST: the address byte equals `DEV_ADDR` (R131). -/
  | acceptUnicast (addr : Byte)
  /-- Row NOT_ADDRESSED: every other address byte (R131). -/
  | notAddressed (addr : Byte)
deriving DecidableEq, Repr

end Sys2Proof
end

