-- ==== Sys2Proof/WellFormed.lean ====
section
/-! DEFINITION. Which terms of `Instr` a frame can carry, for an instance whose address is `dev`: the side conditions of
the decode table's rows (spec/opcode_table.json; R76, R77, R78). -/
namespace Sys2Proof

open Sys2Proof.Machine

/-- An address row: it decodes the byte at offset 0 (R78). -/
def Instr.isAddressRow : Instr → Bool
  | .wmr _ _ _ _ => false
  | .illegalFunction _ => false
  | .acceptBroadcast => true
  | .acceptUnicast _ => true
  | .notAddressed _ => true

/-- A function row: it decodes the byte at offset 1 (R77). -/
def Instr.isFunctionRow : Instr → Bool
  | .wmr _ _ _ _ => true
  | .illegalFunction _ => true
  | .acceptBroadcast => false
  | .acceptUnicast _ => false
  | .notAddressed _ => false

/-- The rows' side conditions. Checks 1 to 5 of the handler are no part of it: a request that fails one is a legal
encoding with an exception as its effect (R81, R82). -/
def Instr.wellFormed (dev : Byte) : Instr → Bool
  | .wmr _ qty _ vals => vals.length == valueCount qty
  | .illegalFunction fc => fc != 0x10#8
  | .acceptBroadcast => true
  | .acceptUnicast addr => addr != 0#8 && addr == dev
  | .notAddressed addr => addr != 0#8 && addr != dev

end Sys2Proof
end

