-- ==== Sys2Proof/Machine/Operands.lean ====
section
/-! DEFINITION. Bytes, 16-bit fields and the operand assembly of the request buffer (20_memory.md R55, R56;
30_encoding.md R70 to R76; 41_frame_assembler.md R118). -/
namespace Sys2Proof.Machine

/-- `{hi, lo}`: a 16-bit value from two bytes, the high byte first (R17, R55). -/
def be16 (hi lo : Byte) : Word := hi ++ lo

/-- `v[15:8]` (R17). -/
def hiByte (v : Word) : Byte := v.extractLsb' 8 8

/-- `v[7:0]` (R17). -/
def loByte (v : Word) : Byte := v.extractLsb' 0 8

/-- The two bytes of a field on the wire, the high byte at the lower offset (R55). -/
def be16Bytes (v : Word) : List Byte := [hiByte v, loByte v]

/-- The request buffer: `RXBUF[0..RX_MAX-1]` (R24). -/
abbrev RxBuf := Vector Byte rxMax

/-- The response buffer: `TXBUF[0..TX_MAX-1]` (R26). -/
abbrev TxBuf := Vector Byte txMax

/-- The register bank: `BANK[0..7]` (R20). -/
abbrev Bank := Vector Word nreg

/-- `BUF[n] <- b_0, BUF[n+1] <- b_1, ..` for the bytes of a list in index order (R19). -/
def putAll {size : Nat} : List Byte → Nat → Vector Byte size → Vector Byte size
  | [], _, buf => buf
  | b :: bs, n, buf => putAll bs (n + 1) (buf.setIfInBounds n b)

/-- The frame copy of R118: `RXBUF[i] <- bytes[i]` for every `i` below the frame's length; the other bytes keep their
values. -/
def overlay (bytes : List Byte) (buf : RxBuf) : RxBuf := putAll bytes 0 buf

/-- `RXBUF[i]`; used below `RX_MAX` only (R76). -/
def rxByte (buf : RxBuf) (i : Nat) : Byte := buf.toList.getD i 0#8

/-- The address byte, offset 0 (R71, R78). -/
def addrField (buf : RxBuf) : Byte := rxByte buf 0

/-- The function-code byte, offset 1: the fetch of R145. -/
def fcField (buf : RxBuf) : Byte := rxByte buf 1

/-- `start = {RXBUF[2], RXBUF[3]}` (R76). -/
def startField (buf : RxBuf) : Word := be16 (rxByte buf 2) (rxByte buf 3)

/-- `qty = {RXBUF[4], RXBUF[5]}` (R76). -/
def qtyField (buf : RxBuf) : Word := be16 (rxByte buf 4) (rxByte buf 5)

/-- `bc = RXBUF[6]` (R76). -/
def bcField (buf : RxBuf) : Byte := rxByte buf 6

/-- `val[k] = {RXBUF[7 + 2k], RXBUF[8 + 2k]}` (R76), whatever `rx_len` is (R160). -/
def valField (buf : RxBuf) (k : Nat) : Word := be16 (rxByte buf (7 + 2 * k)) (rxByte buf (8 + 2 * k))

/-- `val[0] .. val[n-1]` (R76). -/
def valFields (buf : RxBuf) (n : Nat) : List Word := (List.range n).map (valField buf)

end Sys2Proof.Machine
end

