-- ==== Sys2Proof/Decode.lean ====
section
/-! DEFINITION. The decoder and the encoder (30_encoding.md R70 to R84, 42_frame_validator.md R130 to R132,
43_dispatcher.md R145, R146, spec/opcode_table.json). The decoder is total on any bytes; what it rejects, it rejects by
name. -/
namespace Sys2Proof

open Sys2Proof.Machine

/-- Why a byte sequence is no frame the block decodes. Both are silent drops (R230, R231). -/
inductive DecodeError where
  /-- `len > RX_MAX`: a framing error, DROP_OVERSIZE (R117). -/
  | oversize
  /-- The CRC over the whole frame is not zero: INTEGRITY_FAILURE, DROP_CRC (R130). -/
  | integrityFailure
deriving DecidableEq, Repr

/-- The address map (R78, R131): 0x00 is tested first, then `DEV_ADDR`, then every other value. -/
def decodeAddress (dev b : Byte) : Instr :=
  if b = 0x00#8 then .acceptBroadcast
  else if b = dev then .acceptUnicast b
  else .notAddressed b

/-- The function-code map (R77, R146) with the operand assembly of R76. -/
def decodeFunction (buf : RxBuf) : Instr :=
  if fcField buf = 0x10#8 then
    .wmr (startField buf) (qtyField buf) (bcField buf) (valFields buf (valueCount (qtyField buf)))
  else .illegalFunction (fcField buf)

/-- The decoder of a frame: the address row and the function row of the byte sequence `bytes`, received by an instance
whose address is `dev` and whose request buffer held `stale` before the frame. The handler's operands may lie beyond a
short frame, in `stale` (R76, R82, R160). -/
def decodeFrame (dev : Byte) (stale : RxBuf) (bytes : List Byte) : Except DecodeError (Instr × Instr) :=
  if bytes.length > rxMax then .error .oversize
  else if crc16 bytes ≠ 0#16 then .error .integrityFailure
  else .ok (decodeAddress dev (addrField (overlay bytes stale)), decodeFunction (overlay bytes stale))

/-- The bytes of one row, from its decoded byte on: the address byte for an address row; the function code and the
fields of WMR_REQ for a function row (R71, R72). -/
def encode : Instr → List Byte
  | .wmr start qty bc vals => [0x10#8] ++ be16Bytes start ++ be16Bytes qty ++ [bc] ++ vals.flatMap be16Bytes
  | .illegalFunction fc => [fc]
  | .acceptBroadcast => [0x00#8]
  | .acceptUnicast addr => [addr]
  | .notAddressed addr => [addr]

/-- The frame of an address row and a function row, CRC trailer included (R71, R72, R75). -/
def encodeFrame (a f : Instr) : List Byte := encode a ++ encode f ++ crcTrailer (encode a ++ encode f)

/-- The length in bytes of the longest row: WMR with `QMAX` values (R9, R72). -/
abbrev longestRow : Nat := 6 + 2 * qMax

/-- The bytes of a table word: bit 0 is the least significant bit of the first byte; every bit above `nbits` is 0; as
many bytes as the longest row has. -/
def tableBytes (nbits w : Nat) : List Byte :=
  (List.range longestRow).map fun i => BitVec.ofNat 8 ((w % 2 ^ nbits) >>> (8 * i))

/-- DESIGN CHOICE, log 9: does a lone table byte stand for a function code? The table does not say, in a row's bits,
which byte of a frame they decode. The exact rows go first (0x10 a function code, 0x00 and `DEV_ADDR` an address), then
the catch-all rows in the table's order (every other byte a function code). -/
def tableByteIsFunction (dev b : Byte) : Bool := b == 0x10#8 || (b != 0x00#8 && b != dev)

/-- The payload that carries a table word as the row it stands for: after the address `dev` when it is a function row,
from offset 0 on when it is an address row (log 9). -/
def tablePayload (dev : Byte) (nbits w : Nat) : List Byte :=
  if tableByteIsFunction dev (BitVec.ofNat 8 (w % 2 ^ nbits)) then dev :: tableBytes nbits w else tableBytes nbits w

/-- The whole frame of a table word, CRC trailer included. -/
def tableFrame (dev : Byte) (nbits w : Nat) : List Byte :=
  tablePayload dev nbits w ++ crcTrailer (tablePayload dev nbits w)

/-- The instruction the decoder reads from a table word, for the instance of the reset state (log 1, log 9): the frame
decoder run on the word's frame, and of the frame's two rows the one the word stands for. -/
def decodeTableWord (nbits w : Nat) : Option Instr :=
  match decodeFrame instanceAddr (Vector.replicate rxMax 0#8) (tableFrame instanceAddr nbits w) with
  | .error _ => none
  | .ok (a, f) => if tableByteIsFunction instanceAddr (BitVec.ofNat 8 (w % 2 ^ nbits)) then some f else some a

end Sys2Proof
end

