-- ==== Sys2Proof/Machine/State.lean ====
section
/-! DEFINITION. The state of the block and of the collaborators that close it (10_state.md), and why a step may stop. -/
namespace Sys2Proof.Machine

/-- The control state, the block's analogue of a program counter (R21). -/
inductive Fsm where
  /-- No frame is in progress. -/
  | idle
  /-- A byte has arrived; the assembler waits for the end-of-frame silence. -/
  | wait
deriving DecidableEq, Repr

/-- What can happen next: a core step, or an act of the environment between core steps (R5, R242). The acts R242 lists
under "may not do" (a byte removed or echoed, a clock moved back, a display write) are no moves (log 21). -/
inductive Move where
  /-- The core takes one step (R110). -/
  | core
  /-- The transport appends received bytes to `rxq`, in line order (R40). -/
  | receive (bytes : List Byte)
  /-- The clock advances by `ms` milliseconds, modulo 2^32 (R41). -/
  | tick (ms : Nat)
  /-- The reset pin takes a level (R43, R260). -/
  | rst (level : Bool)
  /-- The display reader samples `bank_q[slot]` (R42, R214; log 19). -/
  | displayRead (slot : Fin nreg)
deriving DecidableEq, Repr

/-- Why the machine stops with a fault: never. "Nothing in the block is a fault in the trap sense: no input halts or
locks it" (93_implementation_defined.md; R233; log 17), so the type has no constructor. Safe: nothing is left out. -/
inductive Fault where
deriving DecidableEq, Repr

/-- Why a step has no meaning. -/
inductive Refusal where
  /-- Raised by `exec` for an instruction without a meaning yet; no arm raises it in this model. Safe. -/
  | notModelled (mnemonic : String)
  /-- Raised by the release of `rst` when the instance's configuration is one the spec refuses: `DEV_ADDR = 0x00` (R6,
  U5), or no positive `BAUD` or `T35_MS` (R7, R8, R262; log 5). Safe: no run of a refused instance is claimed. -/
  | illegalConfiguration
deriving DecidableEq, Repr

/-- The machine: the core's registers (R20 to R28), its input pins and static configuration (R43), the collaborators'
state (R40, R41), and the model's own schedule of moves (log 3). -/
structure State where
  /-- `BANK[0..7]` (R20; log 7). -/
  bank : Bank
  /-- `fsm` (R21). -/
  fsm : Fsm
  /-- `sample_count` (R22). -/
  sampleCount : Count
  /-- `sample_time` (R23). -/
  sampleTime : Time
  /-- `RXBUF[0..31]` (R24). -/
  rxbuf : RxBuf
  /-- `rx_len` (R25). -/
  rxLen : BitVec 6
  /-- `TXBUF[0..7]` (R26). -/
  txbuf : TxBuf
  /-- `tx_len` (R27). -/
  txLen : BitVec 4
  /-- `bcast` (R28). -/
  bcast : Bool
  /-- The level of the `rst` pin (R43, R260). -/
  rst : Bool
  /-- The static configuration (R29, R43; log 1). -/
  cfg : Config
  /-- The transport's received and unread bytes, oldest first (R40). -/
  rxq : List Byte
  /-- The bytes handed over for sending, oldest first (R40; log 15). -/
  wire : List Byte
  /-- The clock's millisecond count (R41). -/
  now : Time
  /-- The model's own field (log 3): the moves to come; with none listed, the core steps. -/
  schedule : List Move
deriving DecidableEq, Repr

/-- The block right after reset (R260): `rst` released and every core element at the value its own rule gives. The
configuration is the instance of log 1; the collaborators' values and the empty schedule are the model's (log 2, log 3),
since reset does not reach the environment (R261). -/
def State.reset : State where
  bank := Vector.replicate nreg 0x0000#16
  fsm := .idle
  sampleCount := 0#16
  sampleTime := 0#32
  rxbuf := Vector.replicate rxMax 0x00#8
  rxLen := 0#6
  txbuf := Vector.replicate txMax 0x00#8
  txLen := 0#4
  bcast := false
  rst := false
  cfg := instanceConfig
  rxq := []
  wire := []
  now := 0#32
  schedule := []

end Sys2Proof.Machine
end

