-- ==== Sys2Proof/Machine/Flags.lean ====
section
/-! DEFINITION. The block's one flag, the broadcast flag `bcast` (10_state.md R28, R30): its writers. Its reader is the
transmit gate of Ops.lean. -/
namespace Sys2Proof.Machine

/-- `bcast <- 0` at stage P1 of every frame (R116, R28). -/
def State.clearBcast (s : State) : State := { s with bcast := false }

/-- `bcast <- b` by the address decode at stage P5 (R131). -/
def State.setBcast (b : Bool) (s : State) : State := { s with bcast := b }

end Sys2Proof.Machine
end

