-- ==== Sys2Proof/Machine/Ops.lean ====
section
/-! DEFINITION. The named operations the instructions share: the bank's write-enable logic (46_register_bank.md), the
frame copy, the response builder (45_response_builder.md), and taking a Modbus exception (60_exceptions.md R236). -/
namespace Sys2Proof.Machine

/-- The four protocol exceptions (R79, R147). -/
inductive ModbusException where
  /-- Code 1: a function code other than 0x10. -/
  | unsupportedFunction
  /-- Code 2: checks 3 and 4. -/
  | illegalDataAddress
  /-- Code 3: checks 1 and 2. -/
  | illegalDataValue
  /-- Code 4: check 5. -/
  | valueOutOfRange
deriving DecidableEq, Repr

/-- The `CODE` byte of an exception reply (R79). -/
def ModbusException.code : ModbusException → Byte
  | .unsupportedFunction => 1#8
  | .illegalDataAddress => 2#8
  | .illegalDataValue => 3#8
  | .valueOutOfRange => 4#8

/-! ### The transport and the clock, as the core sees them -/

/-- `Avail()`: the number of received and unread bytes, saturated to `2^AVAIL_W - 1` (R40). -/
def avail (s : State) : Count := BitVec.ofNat 16 (min s.rxq.length 65535)

/-- `elapsed(t) = (t - sample_time) mod 2^CLK_W` at `t = Now()` (R113). -/
def elapsed (s : State) : Time := s.now - s.sampleTime

/-- The silence test of R113: strictly more than `T35_MS`. -/
def silent (s : State) : Bool := decide (s.cfg.t35Ms < (elapsed s).toNat)

/-- The byte count has grown since the last sample (R112). -/
def grown (s : State) : Bool := s.sampleCount.ult (avail s)

/-- Sample the byte count and the clock: what the idle step and the growth step both write (R111, R112). -/
def State.sample (s : State) : State := { s with sampleCount := avail s, sampleTime := s.now }

/-- `fsm <- S` (R19, R21). -/
def State.setFsm (f : Fsm) (s : State) : State := { s with fsm := f }

/-- `RxTake(n)`: the bytes it returns (R40). -/
def rxHead (n : Nat) (s : State) : List Byte := s.rxq.take n

/-- `RxTake(n)`: what it leaves in the transport (R40). -/
def State.rxTake (n : Nat) (s : State) : State := { s with rxq := s.rxq.drop n }

/-- `TxWrite(bs)` appends to `wire`, in order (R40). -/
def State.txWrite (bs : List Byte) (s : State) : State := { s with wire := s.wire ++ bs }

/-! ### The request buffer and the bank -/

/-- The frame copy, stage P3 (R118). -/
def State.copyFrame (bytes : List Byte) (s : State) : State :=
  { s with rxbuf := overlay bytes s.rxbuf, rxLen := BitVec.ofNat 6 bytes.length }

/-- The write enable of slot `i` for a request whose checks all passed, `base <= i and i < base + qty` with
`base = start - REG_BASE` (R210), written without the subtraction. -/
def writeEnable (start qty : Word) (i : Nat) : Bool :=
  decide (start.toNat ≤ regBase + i ∧ regBase + i < start.toNat + qty.toNat)

/-- The write data of slot `i`: `val[i - base]` (R210). -/
def writeData (start : Word) (vals : List Word) (i : Nat) : Word := vals.getD (regBase + i - start.toNat) 0#16

/-- The bank after the commit: every enabled slot written in this one step, every other slot held (R170, R210). -/
def commitBank (start qty : Word) (vals : List Word) (bank : Bank) : Bank :=
  Vector.ofFn fun i => if writeEnable start qty i.val then writeData start vals i.val else bank[i]

/-- The commit of R170. -/
def State.commit (start qty : Word) (vals : List Word) (s : State) : State :=
  { s with bank := commitBank start qty vals s.bank }

/-! ### The response builder -/

/-- The success payload (R73, R171): the request's address byte, 0x10, and its start and quantity bytes verbatim. -/
def successPayload (buf : RxBuf) : List Byte :=
  [rxByte buf 0, 0x10#8, rxByte buf 2, rxByte buf 3, rxByte buf 4, rxByte buf 5]

/-- The exception payload (R74, R190): the request's address byte, its function code with bit 7 set, the code. -/
def exceptionPayload (e : ModbusException) (buf : RxBuf) : List Byte :=
  [rxByte buf 0, rxByte buf 1 ||| 0x80#8, e.code]

/-- Write a payload at the start of `TXBUF`: the success fill of R171 or the exception fill of R190. -/
def State.fill (payload : List Byte) (s : State) : State := { s with txbuf := putAll payload 0 s.txbuf }

/-- The CRC appender, stage P8, over the first `n` bytes of `TXBUF` (R192). -/
def State.appendCrc (n : Nat) (s : State) : State :=
  { s with
    txbuf := putAll (crcTrailer (s.txbuf.toList.take n)) n s.txbuf
    txLen := BitVec.ofNat 4 (n + 2) }

/-- The bytes of the reply last built: `TXBUF[0 .. tx_len-1]` (R193). -/
def txBytes (s : State) : List Byte := s.txbuf.toList.take s.txLen.toNat

/-- The transmit gate, stage P9: one `TxWrite` unless the request was broadcast (R193). -/
def State.transmit (s : State) : State := if s.bcast then s else s.txWrite (txBytes s)

/-- Stages P7 to P9 for a payload: fill, CRC, transmit gate (R190 to R193). -/
def State.respond (payload : List Byte) (s : State) : State :=
  ((s.fill payload).appendCrc payload.length).transmit

/-- TAKING AN EXCEPTION (R236), the one operation for every exception source: the bank stays, the exception reply is
built in `TXBUF` and sent unless `bcast`. No state is saved and no handler is entered; the control state is already back
in IDLE (R116), so there is no return from an exception either (R237). -/
def State.takeException (e : ModbusException) (s : State) : State := s.respond (exceptionPayload e s.rxbuf)

/-- A SUCCESSFUL REPLY (R171, R172, R191 to R193). -/
def State.replySuccess (s : State) : State := s.respond (successPayload s.rxbuf)

/-! ### Reset -/

/-- Every core element at its reset value; the collaborators, the pins and the configuration stay (R260, R261). -/
def State.coreReset (s : State) : State :=
  { s with
    bank := State.reset.bank
    fsm := State.reset.fsm
    sampleCount := State.reset.sampleCount
    sampleTime := State.reset.sampleTime
    rxbuf := State.reset.rxbuf
    rxLen := State.reset.rxLen
    txbuf := State.reset.txbuf
    txLen := State.reset.txLen
    bcast := State.reset.bcast }

end Sys2Proof.Machine
end

