-- ==== Sys2Proof/Machine/Address.lean ====
section
/-! DEFINITION. The address rows of the decode table: stage P5 of R116, the address decode (42_frame_validator.md R131). -/
namespace Sys2Proof.Machine

/-- ACCEPT_BROADCAST (R131, R133): `bcast <- 1`; the frame goes on to the dispatcher and only its reply is suppressed. -/
def execAcceptBroadcast (s : State) : Host.Outcome State Fault Refusal := .next (s.setBcast true)

/-- ACCEPT_UNICAST (R131): `bcast <- 0`; the frame goes on to the dispatcher and its reply is sent. -/
def execAcceptUnicast (_addr : Byte) (s : State) : Host.Outcome State Fault Refusal := .next (s.setBcast false)

/-- NOT_ADDRESSED (R131): `drop(ADDRESS)`, "silently ignored, no response, no mutation". -/
def execNotAddressed (_addr : Byte) (s : State) : Host.Outcome State Fault Refusal := .next s

end Sys2Proof.Machine
end

