-- ==== Sys2Proof/Machine/Function.lean ====
section
/-! DEFINITION. The function rows of the decode table: stages P6 to P9 of R116 (43_dispatcher.md,
44_write_multiple_registers.md, 45_response_builder.md). -/
namespace Sys2Proof.Machine

/-- The five checks of the handler, first failing check first (R161 to R166). `none`: every check passed. All
comparisons are over the natural numbers (R18). -/
def wmrCheck (start qty : Word) (bc : Byte) (vals : List Word) : Option ModbusException :=
  if qty.toNat < 1 ∨ qMax < qty.toNat then some .illegalDataValue
  else if bc.toNat ≠ 2 * qty.toNat then some .illegalDataValue
  else if start.toNat < regBase ∨ regLast < start.toNat then some .illegalDataAddress
  else if spillLimit < start.toNat + qty.toNat then some .illegalDataAddress
  else if vals.any (fun v => vMax < v.toNat) then some .valueOutOfRange
  else none

/-- WMR (R160 to R172): the checks, then the commit and the success reply; on a failing check the exception, with nothing
committed (R167, R168). -/
def execWmr (start qty : Word) (bc : Byte) (vals : List Word) (s : State) : Host.Outcome State Fault Refusal :=
  match wmrCheck start qty bc vals with
  | some e => .next (s.takeException e)
  | none => .next (s.commit start qty vals).replySuccess

/-- ILLEGAL_FUNCTION (R146): exception 1 for every function code other than 0x10. -/
def execIllegalFunction (_fc : Byte) (s : State) : Host.Outcome State Fault Refusal :=
  .next (s.takeException .unsupportedFunction)

end Sys2Proof.Machine
end

