-- ==== Sys2Proof/Machine/Dispatch.lean ====
section
/-! DEFINITION. One arm per row of spec/opcode_table.json. -/
namespace Sys2Proof.Machine

def exec (i : Instr) (s : State) : Host.Outcome State Fault Refusal :=
  match i with
  | .wmr start qty bc vals => Sys2Proof.Machine.execWmr start qty bc vals s
  | .illegalFunction fc => Sys2Proof.Machine.execIllegalFunction fc s
  | .acceptBroadcast => Sys2Proof.Machine.execAcceptBroadcast s
  | .acceptUnicast addr => Sys2Proof.Machine.execAcceptUnicast addr s
  | .notAddressed addr => Sys2Proof.Machine.execNotAddressed addr s

end Sys2Proof.Machine
end

