-- ==== Sys2Proof/Machine/Assembler.lean ====
section
/-! DEFINITION. The frame assembler, the frame validator's sequence and the core step (41_frame_assembler.md R110 to R118,
42_frame_validator.md R130 to R132). -/
namespace Sys2Proof.Machine

/-- The validator's output (R132). -/
inductive VClass where
  | integrityFailure
  | notAddressed
  | acceptUnicast
  | acceptBroadcast
deriving DecidableEq, Repr

/-- The address row of the frame in `RXBUF` (R78, R131). -/
def addressInstr (s : State) : Instr := decodeAddress s.cfg.devAddr (addrField s.rxbuf)

/-- The function row of the frame in `RXBUF` (R77, R145, R146). -/
def functionInstr (s : State) : Instr := decodeFunction s.rxbuf

/-- The integrity check, stage P4: the CRC over the whole frame, trailer included, is zero (R130). -/
def integrityOk (s : State) : Bool := crc16Modbus s.rxbuf.toList 0 s.rxLen.toNat == 0#16

/-- The class the validator gives the frame in `RXBUF[0..rx_len-1]`: the integrity check first, the address only when it
passed (R130, R131, R132). -/
def vclass (s : State) : VClass :=
  if integrityOk s then
    match addressInstr s with
    | .acceptBroadcast => .acceptBroadcast
    | .acceptUnicast _ => .acceptUnicast
    | .notAddressed _ => .notAddressed
    | .wmr _ _ _ _ => .notAddressed
    | .illegalFunction _ => .notAddressed
  else .integrityFailure

/-- `k` after a next state; a fault or a refusal ends the sequence. -/
def andThen (o : Host.Outcome State Fault Refusal) (k : State → Host.Outcome State Fault Refusal) :
    Host.Outcome State Fault Refusal :=
  match o with
  | .next s => k s
  | .fault r => .fault r
  | .refused r => .refused r

/-- Stages P4 to P9 for the frame in `RXBUF` (R116, R132): an integrity failure is dropped; otherwise the address row
runs, and after an accepting one the function row, in the same step (log 11). -/
def runFrame (s : State) : Host.Outcome State Fault Refusal :=
  match vclass s with
  | .integrityFailure => .next s
  | .notAddressed => exec (addressInstr s) s
  | .acceptUnicast => andThen (exec (addressInstr s) s) fun t => exec (functionInstr t) t
  | .acceptBroadcast => andThen (exec (addressInstr s) s) fun t => exec (functionInstr t) t

/-- The state after stage P1: the control state back in IDLE, the frame's bytes taken from the transport, the broadcast
flag cleared (R116). -/
def State.takeFrame (len : Nat) (s : State) : State := ((s.setFsm .idle).rxTake len).clearBcast

/-- `process_frame(a)` (R116): P1; an oversize frame is dropped before the copy (R117); P3; then `runFrame`. -/
def processFrame (len : Nat) (s : State) : Host.Outcome State Fault Refusal :=
  if rxMax < len then .next (s.takeFrame len)
  else runFrame ((s.takeFrame len).copyFrame (rxHead len s))

/-- The idle step (R111): nothing pending, no change; otherwise a frame starts. -/
def idleStep (s : State) : State := if avail s = 0#16 then s else s.sample.setFsm .wait

/-- `core_step()` (R110). While `rst` is asserted the core takes no step (R260). WAIT with an empty transport is reached by
no run (log 14). -/
def coreStep (s : State) : Host.Outcome State Fault Refusal :=
  if s.rst then .next s
  else match s.fsm with
    | .idle => .next (idleStep s)
    | .wait =>
      if grown s then .next s.sample
      else if silent s then processFrame (avail s).toNat s
      else .next s

end Sys2Proof.Machine
end

