-- ==== Sys2Proof/Machine/Environment.lean ====
section
/-! DEFINITION. The environment's moves (10_state.md R40 to R43; 60_exceptions.md R242; 70_reset_and_hazards.md R260,
R261) and the schedule of moves (log 3). -/
namespace Sys2Proof.Machine

/-- The transport appends received bytes to `rxq` (R40). -/
def State.receive (bytes : List Byte) (s : State) : State := { s with rxq := s.rxq ++ bytes }

/-- The clock advances by `ms`, modulo 2^32 (R41). -/
def State.tick (ms : Nat) (s : State) : State := { s with now := s.now + BitVec.ofNat 32 ms }

/-- The `rst` pin takes a level (R260, R261). Asserting it puts the core at its reset values (log 6); releasing an
asserted `rst` starts the core at its reset values, if the configuration is one the spec admits (R6, R262; log 5). A
level the pin already has changes nothing when it is low. -/
def setRst (level : Bool) (s : State) : Host.Outcome State Fault Refusal :=
  match level, s.rst with
  | true, _ => .next { s.coreReset with rst := true }
  | false, true =>
    if configLegal s.cfg then .next { s.coreReset with rst := false } else .refused .illegalConfiguration
  | false, false => .next s

/-- The read port `bank_q[i] = BANK[i]` (R214). -/
def bankQ (s : State) (slot : Fin nreg) : Word := s.bank[slot]

/-- One move. A display read has no side effect (R61, R214). -/
def applyMove (m : Move) (s : State) : Host.Outcome State Fault Refusal :=
  match m with
  | .core => coreStep s
  | .receive bytes => .next (s.receive bytes)
  | .tick ms => .next (s.tick ms)
  | .rst level => setRst level s
  | .displayRead _ => .next s

/-- The next move of the schedule, removed from it; with none listed, the core steps (R5; log 3). -/
def nextMove (s : State) : Host.Outcome State Fault Refusal :=
  match s.schedule with
  | [] => coreStep s
  | m :: rest => applyMove m { s with schedule := rest }

/-- The state in which the next step takes `frame` from the transport and processes it: the frame is all the transport
holds, its bytes have been counted, more than `T35_MS` of silence have passed, and it is the core's turn (log 10). -/
def State.atFrame (frame : List Byte) (s : State) : State :=
  { s with
    rst := false
    fsm := .wait
    rxq := frame
    sampleCount := BitVec.ofNat 16 frame.length
    sampleTime := s.now - BitVec.ofNat 32 (s.cfg.t35Ms + 1)
    schedule := .core :: s.schedule }

end Sys2Proof.Machine
end

