-- ==== Sys2Proof/Machine/Step.lean ====
section
/-! DEFINITION. One step of the closed machine, and the placing of an instruction where the next step takes it. -/
namespace Sys2Proof.Machine

/-- One step: one move of the schedule, the core's own step when none is listed (R5, R110; log 3). -/
def step (s : State) : Host.Outcome State Fault Refusal := nextMove s

/-- `s` with the table word `w` of `nbits` bits laid out as a request frame that the very next step processes. The block
runs no stored program: a program is the frames the transport delivers, and this stands for that delivery (log 10). -/
def State.withFetchWord (s : State) (nbits w : Nat) : State := s.atFrame (tableFrame s.cfg.devAddr nbits w)

end Sys2Proof.Machine
end

