-- ==== Sys2Proof/Safety.lean ====
section
/-! DEFINITION. The terms in which claims about the block are stated: whose turn it is, when a frame is complete, what
becomes of it (60_exceptions.md R230, R235), and the invariant of every reachable state (46_register_bank.md R212,
R213). -/
namespace Sys2Proof.Safety

open Sys2Proof.Machine

/-- It is the core's turn: the state in which the core steps, its move removed from the schedule (log 3). -/
def coreTurn (s : State) : Option State :=
  match s.schedule with
  | [] => some s
  | .core :: rest => some { s with schedule := rest }
  | .receive _ :: _ => none
  | .tick _ :: _ => none
  | .rst _ :: _ => none
  | .displayRead _ :: _ => none

/-- The core is in WAIT with `rst` released, the byte count has not grown, and the silence test holds: the step that
processes a frame (R110, R113). -/
def FrameReady (t : State) : Prop :=
  t.rst = false ∧ t.fsm = .wait ∧ (avail t).toNat ≤ t.sampleCount.toNat ∧
    t.cfg.t35Ms < (2 ^ 32 + t.now.toNat - t.sampleTime.toNat) % 2 ^ 32

/-- The frame: the bytes in the transport at the ready step (R114), as many as `Avail()` counts (R40). -/
def frameOf (t : State) : List Byte := t.rxq.take (min t.rxq.length 65535)

/-- What the ready step leaves in the transport (R40, R116). -/
def leftOver (t : State) : List Byte := t.rxq.drop (min t.rxq.length 65535)

/-- The request buffer after the frame copy (R118). -/
def requestBuf (t : State) : RxBuf := overlay (frameOf t) t.rxbuf

/-- The state after stages P1 to P3 of a frame that fits the request buffer (R116, R118). -/
def loaded (t : State) : State :=
  { t with
    fsm := .idle
    rxq := leftOver t
    bcast := false
    rxbuf := requestBuf t
    rxLen := BitVec.ofNat 6 (frameOf t).length }

/-- The conditions under which a request writes (R168). -/
def WritesAllowed (start qty : Word) (bc : Byte) (vals : List Word) : Prop :=
  1 ≤ qty.toNat ∧ bc.toNat = 2 * qty.toNat ∧ 0x0010 ≤ start.toNat ∧ start.toNat + qty.toNat ≤ 0x0017 ∧
    ∀ v ∈ vals, v.toNat ≤ 1023

/-- The bank after a request that writes: slot `i` takes `val[k]` when `start + k` is its register address, every other
slot holds (R51, R170). -/
def BankWritten (start qty : Word) (vals : List Word) (before after : Bank) : Prop :=
  ∀ i : Fin nreg, after[i] =
    if start.toNat ≤ 0x0010 + i.val ∧ 0x0010 + i.val < start.toNat + qty.toNat
    then vals.getD (0x0010 + i.val - start.toNat) 0#16 else before[i]

/-- A payload and its CRC trailer, low byte first (R75). -/
def withTrailer (payload : List Byte) : List Byte :=
  payload ++ [(crc16Modbus payload 0 payload.length).extractLsb' 0 8, (crc16Modbus payload 0 payload.length).extractLsb' 8 8]

/-- `t` is `s` after the reply `reply` was built and sent, or discarded when the request was broadcast (R190 to R193):
the reply stands at the start of `TXBUF`, the rest of `TXBUF` holds, and nothing but `TXBUF`, `tx_len` and `wire` changes. -/
def Replied (reply : List Byte) (s t : State) : Prop :=
  t.txbuf.toList = reply ++ s.txbuf.toList.drop reply.length ∧ t.txLen.toNat = reply.length ∧
    t.wire = (if s.bcast then s.wire else s.wire ++ reply) ∧
    t = { s with txbuf := t.txbuf, txLen := t.txLen, wire := t.wire }

/-- The exception reply with code `code` to the request in `buf` (R74, R190). -/
def exceptionReply (code : Byte) (buf : RxBuf) : List Byte := withTrailer [buf[0], buf[1] ||| 0x80#8, code]

/-- The success reply to the request in `buf` (R73, R171). -/
def successReply (buf : RxBuf) : List Byte := withTrailer [buf[0], 0x10#8, buf[2], buf[3], buf[4], buf[5]]

/-- What becomes of a frame (R230). -/
inductive FrameOutcome where
  /-- DROP_OVERSIZE. -/
  | dropOversize
  /-- DROP_CRC. -/
  | dropCrc
  /-- DROP_ADDRESS. -/
  | dropAddress
  /-- EXCEPTION(c), unicast or broadcast. -/
  | exception (code : Byte) (broadcast : Bool)
  /-- SUCCESS, unicast or broadcast. -/
  | success (broadcast : Bool)
deriving DecidableEq, Repr

/-- The outcome of the complete frame in `t`, by the priority list of R235, from the raw bytes alone. -/
def frameOutcome (t : State) : FrameOutcome :=
  let frame := frameOf t
  let buf := requestBuf t
  let start := buf[2].toNat * 256 + buf[3].toNat
  let qty := buf[4].toNat * 256 + buf[5].toNat
  let bc := buf[6].toNat
  let broadcast := buf[0] == 0x00#8
  if 32 < frame.length then .dropOversize
  else if crc16Modbus frame 0 frame.length ≠ 0x0000#16 then .dropCrc
  else if buf[0] ≠ 0x00#8 ∧ buf[0] ≠ t.cfg.devAddr then .dropAddress
  else if buf[1] ≠ 0x10#8 then .exception 1#8 broadcast
  else if qty < 1 ∨ 8 < qty then .exception 3#8 broadcast
  else if bc ≠ 2 * qty then .exception 3#8 broadcast
  else if start < 0x0010 ∨ 0x0017 < start then .exception 2#8 broadcast
  else if 0x0017 < start + qty then .exception 2#8 broadcast
  else if (List.range qty).any (fun k =>
      1023 < (rxByte buf (7 + 2 * k)).toNat * 256 + (rxByte buf (8 + 2 * k)).toNat) then .exception 4#8 broadcast
  else .success broadcast

/-- Every slot holds a value from 0 to 1023 (R212) and slot 7 holds 0x0000 (R53, R213). -/
def BankInRange (bank : Bank) : Prop := (∀ i : Fin nreg, bank[i].toNat ≤ 1023) ∧ bank[7] = 0x0000#16

/-- The invariant of every reachable state. -/
structure Inv (s : State) : Prop where
  /-- The bank's values (R53, R212, R213). -/
  bank : BankInRange s.bank
  /-- `rx_len` is the length of a frame that fits `RXBUF` (R25). -/
  rxLen : s.rxLen.toNat ≤ 32
  /-- `tx_len` is 0 before the first reply, then 8 or 5 (R27). -/
  txLen : s.txLen.toNat = 0 ∨ s.txLen.toNat = 5 ∨ s.txLen.toNat = 8
  /-- In WAIT at least one byte has been counted, and the count has not fallen since (R21, R40, R116). -/
  counted : s.fsm = .wait → 1 ≤ s.sampleCount.toNat ∧ s.sampleCount.toNat ≤ (avail s).toNat
  /-- While `rst` is asserted no frame is in progress (R260; log 6). -/
  held : s.rst = true → s.fsm = .idle

/-- The core elements are at the reset values of R260; the environment and the configuration are whatever they are. -/
def CoreAtReset (s : State) : Prop :=
  s.bank = Vector.replicate 8 0x0000#16 ∧ s.fsm = .idle ∧ s.sampleCount = 0#16 ∧ s.sampleTime = 0#32 ∧
    s.rxbuf = Vector.replicate 32 0x00#8 ∧ s.rxLen = 0#6 ∧ s.txbuf = Vector.replicate 8 0x00#8 ∧ s.txLen = 0#4 ∧
    s.bcast = false

/-- One round of a sender that does not stop (R115): bytes arrive and the core samples them, then the clock advances
some times, with a core step after each. -/
structure SenderRound where
  /-- The bytes that arrive. -/
  bytes : List Byte
  /-- The advances of the clock after them. -/
  ticks : List Nat
deriving DecidableEq, Repr

/-- The moves of one round. -/
def SenderRound.moves (r : SenderRound) : List Move :=
  .receive r.bytes :: .core :: r.ticks.flatMap fun d => [.tick d, .core]

/-- `n` milliseconds in which nothing arrives and the core steps once at every clock value (R263). -/
def quietMoves (n : Nat) : List Move := (List.replicate n [Move.tick 1, Move.core]).flatten

end Sys2Proof.Safety
end

