-- ==== Sys2Proof/Certificates/Slice0/Obligations.lean ====
section
/-! DEFINITION. The statements for the provers. The rules are those of spec/; `coreTurn s = some t` says that the next
step is the core's and `t` the state it acts on (log 3). No statement rests on the instance address or the environment's
values that `State.reset` names (log 1, log 2) unless it says so. Where the spec marks a rule as its own decision D<n>
or inference ("derived"), the docstring names it, and the statement is of basis 'derived' (log 20). -/
open Sys2Proof Sys2Proof.Machine Sys2Proof.Safety

/-! ### Encodings -/

/-- Decode and encode agree, CRC trailer included, for every address row with every function row and every value of
every operand, whatever an earlier frame left in `RXBUF` (R71, R72, R75 to R78). -/
def Obligations.FrameEncodeDecodeAgree : Prop :=
  ∀ (dev : Byte) (stale : RxBuf) (a f : Instr),
    a.isAddressRow = true → f.isFunctionRow = true → a.wellFormed dev = true → f.wellFormed dev = true →
    decodeFrame dev stale (encodeFrame a f) = .ok (a, f)

/-- Sanity: frames written out byte by byte in 95_test_vectors.md (V-WMR-1, V-VAL-3, V-VAL-2, V-DSP-1) decode to the rows
they stand for, for an instance at 0x01. -/
def Obligations.SpecFramesDecode : Prop :=
  let zero : RxBuf := Vector.replicate 32 0#8
  decodeFrame 0x01#8 zero
      [0x01#8, 0x10#8, 0x00#8, 0x10#8, 0x00#8, 0x02#8, 0x04#8, 0x00#8, 0x64#8, 0x00#8, 0xC8#8, 0xB2#8, 0xEA#8]
      = .ok (.acceptUnicast 0x01#8, .wmr 0x0010#16 0x0002#16 0x04#8 [100#16, 200#16]) ∧
  decodeFrame 0x01#8 zero
      [0x00#8, 0x10#8, 0x00#8, 0x10#8, 0x00#8, 0x02#8, 0x04#8, 0x00#8, 0x64#8, 0x00#8, 0xC8#8, 0xB6#8, 0x16#8]
      = .ok (.acceptBroadcast, .wmr 0x0010#16 0x0002#16 0x04#8 [100#16, 200#16]) ∧
  decodeFrame 0x01#8 zero
      [0x02#8, 0x10#8, 0x00#8, 0x15#8, 0x00#8, 0x01#8, 0x02#8, 0x00#8, 0x4D#8, 0x70#8, 0x50#8]
      = .ok (.notAddressed 0x02#8, .wmr 0x0015#16 0x0001#16 0x02#8 [77#16]) ∧
  decodeFrame 0x01#8 zero [0x01#8, 0x03#8, 0x00#8, 0x10#8, 0x00#8, 0x01#8, 0x85#8, 0xCF#8]
      = .ok (.acceptUnicast 0x01#8, .illegalFunction 0x03#8)

/-- R76: the operands stand at fixed offsets, big-endian, whatever the frame's length; an offset at or beyond the length
reads the byte an earlier frame left there (decision D7). The values are those below `qty`, for every `qty` check 1
admits. -/
def Obligations.OperandsAtFixedOffsets : Prop :=
  ∀ (dev : Byte) (stale : RxBuf) (bytes : List Byte) (a : Instr) (start qty : Word) (bc : Byte) (vals : List Word),
    decodeFrame dev stale bytes = .ok (a, .wmr start qty bc vals) →
    let byteAt : Nat → Byte := fun o => if o < bytes.length then bytes.getD o 0#8 else stale.toList.getD o 0#8
    byteAt 1 = 0x10#8 ∧ start = byteAt 2 ++ byteAt 3 ∧ qty = byteAt 4 ++ byteAt 5 ∧ bc = byteAt 6 ∧
    (qty.toNat ≤ 8 → vals.length = qty.toNat ∧
      ∀ k, k < qty.toNat → vals.getD k 0#16 = byteAt (7 + 2 * k) ++ byteAt (8 + 2 * k))

/-- A frame that decodes holds both decoded bytes itself, none of them a stale byte: its address row follows its own byte 0
by the address map of R78, and its function row its own byte 1 by the function-code map of R77 (R145: the function code is
never read from beyond the frame). -/
def Obligations.RowsFollowTheFrameBytes : Prop :=
  ∀ (dev : Byte) (stale : RxBuf) (bytes : List Byte) (a f : Instr), decodeFrame dev stale bytes = .ok (a, f) →
    ∃ (addr fc : Byte) (more : List Byte), bytes = addr :: fc :: more ∧
      (a = .acceptBroadcast ↔ addr = 0x00#8) ∧
      (∀ x, a = .acceptUnicast x ↔ addr ≠ 0x00#8 ∧ addr = dev ∧ x = addr) ∧
      (∀ x, a = .notAddressed x ↔ addr ≠ 0x00#8 ∧ addr ≠ dev ∧ x = addr) ∧
      ((∃ start qty bc vals, f = .wmr start qty bc vals) ↔ fc = 0x10#8) ∧
      (∀ x, f = .illegalFunction x ↔ fc ≠ 0x10#8 ∧ x = fc)

/-- R83: a frame longer than `RX_MAX` is a framing error (decision D6); no one-byte frame passes the CRC check, and the only two-byte
frame that does is FF FF. -/
def Obligations.FrameLengthLimits : Prop :=
  (∀ (dev : Byte) (stale : RxBuf) (bytes : List Byte), 32 < bytes.length →
    decodeFrame dev stale bytes = .error .oversize) ∧
  (∀ a : Byte, crc16Modbus [a] 0 1 ≠ 0x0000#16) ∧
  (∀ a b : Byte, crc16Modbus [a, b] 0 2 = 0x0000#16 ↔ a = 0xFF#8 ∧ b = 0xFF#8)

/-! ### The CRC generator -/

/-- R102, the residue property: the CRC over a byte sequence and its own little-endian CRC is zero. -/
def Obligations.CrcResidueIsZero : Prop :=
  ∀ b : List Byte,
    crc16Modbus (b ++ [(crc16Modbus b 0 b.length).extractLsb' 0 8, (crc16Modbus b 0 b.length).extractLsb' 8 8])
      0 (b.length + 2) = 0x0000#16

/-- R101 and R105 (both derived, by the spec, from R100): the empty input gives 0xFFFF, and the nine bytes "123456789" give 0x4B37. -/
def Obligations.CrcEmptyAndCheckValue : Prop :=
  (∀ (buf : List Byte) (s : Nat), crc16Modbus buf s 0 = 0xFFFF#16) ∧
  crc16Modbus [0x31#8, 0x32#8, 0x33#8, 0x34#8, 0x35#8, 0x36#8, 0x37#8, 0x38#8, 0x39#8] 0 9 = 0x4B37#16

/-! ### The step and the environment -/

/-- The step is the next move of the schedule, and the core's own step when none is listed (the model's rendering of R5,
log 3); receiving and ticking are R40's append and R41's advance, and a display read changes nothing (R61, R214). -/
def Obligations.StepIsTheNextMove : Prop :=
  (∀ s t : State, coreTurn s = some t → step s = coreStep t) ∧
  (∀ (s : State) (bs : List Byte) (rest : List Move), s.schedule = .receive bs :: rest →
    step s = .next { s with schedule := rest, rxq := s.rxq ++ bs }) ∧
  (∀ (s : State) (d : Nat) (rest : List Move), s.schedule = .tick d :: rest →
    step s = .next { s with schedule := rest, now := BitVec.ofNat 32 (s.now.toNat + d) }) ∧
  (∀ (s : State) (i : Fin nreg) (rest : List Move), s.schedule = .displayRead i :: rest →
    step s = .next { s with schedule := rest })

/-- R111, the idle step, with `Avail() = 0` said of the transport's own bytes (R40). -/
def Obligations.IdleStepStartsFrame : Prop :=
  ∀ s t : State, coreTurn s = some t → t.rst = false → t.fsm = .idle →
    (t.rxq = [] → step s = .next t) ∧
    (t.rxq ≠ [] → ∃ u, step s = .next u ∧ u.sampleCount.toNat = min t.rxq.length 65535 ∧
      u = { t with sampleCount := u.sampleCount, sampleTime := t.now, fsm := .wait })

/-- R112, the growth step (decision D5): the sample registers take the count and the clock, and `fsm` stays WAIT. -/
def Obligations.GrowthRestartsSilenceTimer : Prop :=
  ∀ s t : State, coreTurn s = some t → t.rst = false → t.fsm = .wait →
    t.sampleCount.toNat < min t.rxq.length 65535 →
    ∃ u, step s = .next u ∧ u.sampleCount.toNat = min t.rxq.length 65535 ∧
      u = { t with sampleCount := u.sampleCount, sampleTime := t.now }

/-- R113, the silence test (decision D4): without growth, a frame whose elapsed time modulo 2^32 is at most `T35_MS` is not ready and
nothing changes; with more, the frame is complete and the block is back in IDLE without the frame's bytes. -/
def Obligations.SilenceTestIsStrictAndModular : Prop :=
  ∀ s t : State, coreTurn s = some t → t.rst = false → t.fsm = .wait →
    min t.rxq.length 65535 ≤ t.sampleCount.toNat →
    ((2 ^ 32 + t.now.toNat - t.sampleTime.toNat) % 2 ^ 32 ≤ t.cfg.t35Ms → step s = .next t) ∧
    (t.cfg.t35Ms < (2 ^ 32 + t.now.toNat - t.sampleTime.toNat) % 2 ^ 32 →
      ∃ u, step s = .next u ∧ u.fsm = .idle ∧ u.rxq = t.rxq.drop (min t.rxq.length 65535))

/-- R115, the endless frame: while the sampled byte count keeps growing at least once every `T35_MS` ms of sampled time,
the block stays in WAIT, processes nothing, and the bytes pile up, however long the sender goes on. The count can grow
only below its saturation at 65535 (R40), hence the premise on the total. -/
def Obligations.EndlessFrameNeverEnds : Prop :=
  ∀ (s : State) (rounds : List SenderRound) (rest : List Move),
    s.rst = false → s.fsm = .wait → s.sampleCount.toNat ≤ s.rxq.length →
    s.schedule = rounds.flatMap SenderRound.moves ++ rest →
    (∀ r ∈ rounds, r.bytes ≠ [] ∧ r.ticks.sum ≤ s.cfg.t35Ms) →
    s.rxq.length + (rounds.flatMap SenderRound.bytes).length ≤ 65535 →
    ∃ u, Host.Core.run Sys2Proof.core (rounds.flatMap SenderRound.moves).length s = .next u ∧
      u.fsm = .wait ∧ u.rxq = s.rxq ++ rounds.flatMap SenderRound.bytes ∧ u.bank = s.bank ∧ u.wire = s.wire ∧
      u.schedule = rest

/-- A quiet line ends the frame: from the step that sampled the last byte, with one core step at every millisecond, the
block waits unchanged for `T35_MS` ms and takes the frame at the step `T35_MS + 1` ms later, not before (R113, decision
D4; R263). -/
def Obligations.QuietLineEndsTheFrame : Prop :=
  ∀ (s : State) (rest : List Move),
    s.rst = false → s.fsm = .wait → (avail s).toNat ≤ s.sampleCount.toNat → s.sampleTime = s.now →
    s.cfg.t35Ms + 1 < 2 ^ 32 → s.schedule = quietMoves (s.cfg.t35Ms + 1) ++ rest →
    (∀ m, m ≤ s.cfg.t35Ms →
      Host.Core.run Sys2Proof.core (2 * m) s = .next { s with
        now := s.now + BitVec.ofNat 32 m
        schedule := quietMoves (s.cfg.t35Ms + 1 - m) ++ rest }) ∧
    ∃ u, Host.Core.run Sys2Proof.core (2 * (s.cfg.t35Ms + 1)) s = .next u ∧
      u.fsm = .idle ∧ u.rxq = leftOver s ∧ u.schedule = rest

/-! ### What becomes of a frame -/

/-- A step runs the decoded frame: when the bytes of a complete frame decode to an address row and a function row, the
step is P1 to P3, then `exec` of the address row and, when that row accepts, `exec` of the function row (R116, decisions
D9 and D22; R132). -/
def Obligations.StepRunsDecodedFrame : Prop :=
  ∀ (s t : State) (a f : Instr), coreTurn s = some t → FrameReady t →
    decodeFrame t.cfg.devAddr t.rxbuf (frameOf t) = .ok (a, f) →
    a.isAddressRow = true ∧ f.isFunctionRow = true ∧
    a.wellFormed t.cfg.devAddr = true ∧ f.wellFormed t.cfg.devAddr = true ∧
    ∃ p, exec a (loaded t) = .next p ∧
      step s = match a with
        | .acceptBroadcast => exec f p
        | .acceptUnicast _ => exec f p
        | .notAddressed _ => .next p
        | .wmr _ _ _ _ => .next p
        | .illegalFunction _ => .next p

/-- R235: the first condition of the priority list decides the outcome, and the outcome is the one R230's table gives:
what is sent, and whether the bank is written (the oversize check's place is decision D6, the stale
bytes of `requestBuf` that a short frame's fields are read from D7, the reply's echo D11).
Whatever the outcome, the block is back in IDLE without the frame. -/
def Obligations.FrameOutcomeTable : Prop :=
  ∀ s t : State, coreTurn s = some t → FrameReady t →
    ∃ u, step s = .next u ∧ u.fsm = .idle ∧ u.rxq = leftOver t ∧
      match frameOutcome t with
      | .dropOversize => u.wire = t.wire ∧ u.bank = t.bank
      | .dropCrc => u.wire = t.wire ∧ u.bank = t.bank
      | .dropAddress => u.wire = t.wire ∧ u.bank = t.bank
      | .exception code broadcast =>
          u.wire = (if broadcast then t.wire else t.wire ++ exceptionReply code (requestBuf t)) ∧ u.bank = t.bank
      | .success broadcast =>
          u.wire = (if broadcast then t.wire else t.wire ++ successReply (requestBuf t)) ∧
          BankWritten (startField (requestBuf t)) (qtyField (requestBuf t))
            (valFields (requestBuf t) (qtyField (requestBuf t)).toNat) t.bank u.bank

/-- R117 (decision D6): an oversize frame is taken from the transport in full and discarded; `RXBUF` and `rx_len` are not changed and
nothing is sent. -/
def Obligations.OversizeFrameIsDropped : Prop :=
  ∀ s t : State, coreTurn s = some t → FrameReady t → 32 < t.rxq.length →
    step s = .next { t with fsm := .idle, rxq := leftOver t, bcast := false }

/-- R118 (decision D7) and R134: every frame that fits is copied into `RXBUF[0..len-1]` with its length, the bytes beyond keep their
values, and this holds whatever becomes of the frame afterwards. -/
def Obligations.FrameCopyKeepsTail : Prop :=
  ∀ s t : State, coreTurn s = some t → FrameReady t → t.rxq.length ≤ 32 →
    ∃ u, step s = .next u ∧ u.rxLen.toNat = t.rxq.length ∧
      ∀ i : Fin rxMax, u.rxbuf[i] = if i.val < t.rxq.length then t.rxq.getD i.val 0#8 else t.rxbuf[i]

/-- R130: a frame whose CRC over all its bytes is not zero is dropped with no response, whatever its address, and nothing
is written beyond stages P1 to P3. -/
def Obligations.IntegrityFailureIsDropped : Prop :=
  ∀ s t : State, coreTurn s = some t → FrameReady t → t.rxq.length ≤ 32 →
    crc16Modbus t.rxq 0 t.rxq.length ≠ 0x0000#16 → step s = .next (loaded t)

/-- A frame that passes the CRC check and is addressed neither to 0x00 nor to `DEV_ADDR` is dropped, regardless of its
payload: no response, no mutation (R131, R231). -/
def Obligations.ForeignFrameIsDropped : Prop :=
  ∀ (s t : State) (b : Byte) (more : List Byte), coreTurn s = some t → FrameReady t → t.rxq = b :: more →
    t.rxq.length ≤ 32 → crc16Modbus t.rxq 0 t.rxq.length = 0x0000#16 → b ≠ 0x00#8 → b ≠ t.cfg.devAddr →
    step s = .next (loaded t)

/-- R133: a broadcast frame is processed exactly like the unicast frame with the same function and payload: the same
registers are written. Only its transmission is suppressed. -/
def Obligations.BroadcastExecutesSilently : Prop :=
  ∀ (s : State) (f : Instr), s.cfg.t35Ms + 1 < 2 ^ 32 → s.cfg.devAddr ≠ 0x00#8 →
    f.isFunctionRow = true → f.wellFormed s.cfg.devAddr = true →
    ∃ u v, step (s.atFrame (encodeFrame .acceptBroadcast f)) = .next u ∧
      step (s.atFrame (encodeFrame (.acceptUnicast s.cfg.devAddr) f)) = .next v ∧
      u.bank = v.bank ∧ u.wire = s.wire ∧ ∃ r, r ≠ [] ∧ v.wire = s.wire ++ r

/-! ### The address rows -/

/-- R131, the address decode with its effect: 0x00 is tested first and sets `bcast`, `DEV_ADDR` clears it, and every
other address changes nothing. Each of the three rows completes in every state. -/
def Obligations.AddressDecodeAndEffect : Prop :=
  (∀ (dev b : Byte) (s : State), exec (decodeAddress dev b) s =
    .next (if b = 0x00#8 then { s with bcast := true } else if b = dev then { s with bcast := false } else s)) ∧
  (∀ s : State, exec .acceptBroadcast s = .next { s with bcast := true }) ∧
  (∀ (addr : Byte) (s : State), exec (.acceptUnicast addr) s = .next { s with bcast := false }) ∧
  (∀ (addr : Byte) (s : State), exec (.notAddressed addr) s = .next s)

/-- R28 (decision D22): `bcast` is recomputed by every frame, 1 exactly for a frame that fits, passes the CRC check and has address 0x00;
a step that processes no frame and no reset keeps it. -/
def Obligations.BroadcastFlagRecomputedPerFrame : Prop :=
  ∀ s u : State, step s = .next u →
    (∀ t, coreTurn s = some t → FrameReady t →
      u.bcast = decide ((frameOf t).length ≤ 32 ∧ crc16Modbus (frameOf t) 0 (frameOf t).length = 0x0000#16 ∧
        (requestBuf t)[0] = 0x00#8)) ∧
    ((∀ t, coreTurn s = some t → ¬ FrameReady t) → (∀ level rest, s.schedule ≠ .rst level :: rest) →
      u.bcast = s.bcast)

/-! ### The function rows -/

/-- R146: every function code other than 0x10 gives exception 1, and the row completes in every state; its frame is
`Replied` (nothing but `TXBUF`, `tx_len` and `wire` changes). -/
def Obligations.IllegalFunctionRepliesOne : Prop :=
  ∀ (fc : Byte) (s : State), ∃ t, exec (.illegalFunction fc) s = .next t ∧
    Replied (exceptionReply 1#8 s.rxbuf) s t

/-- R162, check 1: `qty < 1` or `qty > 8` gives exception 3, whatever the other operands. -/
def Obligations.WmrQuantityCheck : Prop :=
  ∀ (start qty : Word) (bc : Byte) (vals : List Word) (s : State),
    qty.toNat < 1 ∨ 8 < qty.toNat →
    ∃ t, exec (.wmr start qty bc vals) s = .next t ∧ Replied (exceptionReply 3#8 s.rxbuf) s t

/-- R163, check 2: past check 1, a byte count other than twice the quantity gives exception 3. -/
def Obligations.WmrByteCountCheck : Prop :=
  ∀ (start qty : Word) (bc : Byte) (vals : List Word) (s : State),
    1 ≤ qty.toNat → qty.toNat ≤ 8 → bc.toNat ≠ 2 * qty.toNat →
    ∃ t, exec (.wmr start qty bc vals) s = .next t ∧ Replied (exceptionReply 3#8 s.rxbuf) s t

/-- R164, check 3: past checks 1 and 2, a start below 0x0010 or above 0x0017 gives exception 2. -/
def Obligations.WmrStartRangeCheck : Prop :=
  ∀ (start qty : Word) (bc : Byte) (vals : List Word) (s : State),
    1 ≤ qty.toNat → qty.toNat ≤ 8 → bc.toNat = 2 * qty.toNat → start.toNat < 0x0010 ∨ 0x0017 < start.toNat →
    ∃ t, exec (.wmr start qty bc vals) s = .next t ∧ Replied (exceptionReply 2#8 s.rxbuf) s t

/-- R165, check 4: past checks 1 to 3, `start + qty > 0x0017` gives exception 2. -/
def Obligations.WmrSpillCheck : Prop :=
  ∀ (start qty : Word) (bc : Byte) (vals : List Word) (s : State),
    1 ≤ qty.toNat → qty.toNat ≤ 8 → bc.toNat = 2 * qty.toNat → 0x0010 ≤ start.toNat → start.toNat ≤ 0x0017 →
    0x0017 < start.toNat + qty.toNat →
    ∃ t, exec (.wmr start qty bc vals) s = .next t ∧ Replied (exceptionReply 2#8 s.rxbuf) s t

/-- R166, check 5: past checks 1 to 4, any value above 1023 gives exception 4, and no earlier value of the list is
written. -/
def Obligations.WmrValueRangeCheck : Prop :=
  ∀ (start qty : Word) (bc : Byte) (vals : List Word) (s : State),
    1 ≤ qty.toNat → bc.toNat = 2 * qty.toNat → 0x0010 ≤ start.toNat → start.toNat + qty.toNat ≤ 0x0017 →
    (∃ v ∈ vals, 1023 < v.toNat) →
    ∃ t, exec (.wmr start qty bc vals) s = .next t ∧ Replied (exceptionReply 4#8 s.rxbuf) s t

/-- R170 with R171 to R193: a request that passes every check completes; it writes its slots and no other, builds the
success reply (its echo is decision D11) and sends it unless broadcast; nothing else changes. -/
def Obligations.WmrCommitsAndReplies : Prop :=
  ∀ (start qty : Word) (bc : Byte) (vals : List Word) (s : State), WritesAllowed start qty bc vals →
    ∃ t, exec (.wmr start qty bc vals) s = .next t ∧ BankWritten start qty vals s.bank t.bank ∧
      Replied (successReply s.rxbuf) { s with bank := t.bank } t

/-- R168 (derived, by the spec, from R161 to R170): a request writes every slot it names, or no slot at all; it is granted exactly when its operands satisfy R168's
conditions, and those admit 28 pairs of start and quantity. -/
def Obligations.WmrAllOrNothing : Prop :=
  (∀ (start qty : Word) (bc : Byte) (vals : List Word) (s : State),
    ∃ t, exec (.wmr start qty bc vals) s = .next t ∧
      (WritesAllowed start qty bc vals → BankWritten start qty vals s.bank t.bank ∧ t.txLen = 8#4) ∧
      (¬ WritesAllowed start qty bc vals → t.bank = s.bank ∧ t.txLen = 5#4)) ∧
  (∀ start qty : Nat, (1 ≤ qty ∧ 0x0010 ≤ start ∧ start + qty ≤ 0x0017) ↔
    ∃ i j, i + j ≤ 6 ∧ start = 0x0010 + i ∧ qty = j + 1) ∧
  ((Finset.range 7 ×ˢ Finset.range 7).filter fun p => p.1 + p.2 ≤ 6).card = 28

/-- R169: writing the values one after another in ascending address order gives the same bank as the one-step commit. -/
def Obligations.CommitEqualsAscendingWrites : Prop :=
  ∀ (start qty : Word) (vals : List Word) (bank : Bank),
    0x0010 ≤ start.toNat → start.toNat + qty.toNat ≤ 0x0018 →
    (List.range qty.toNat).foldl
      (fun b k => b.setIfInBounds (start.toNat - 0x0010 + k) (vals.getD k 0#16)) bank = commitBank start qty vals bank

/-- The write enables of a granted request: never slot 7, at least one slot (R210), and the worked example of R210. -/
def Obligations.WriteEnablesOfGrantedRequest : Prop :=
  (∀ (start qty : Word) (bc : Byte) (vals : List Word), WritesAllowed start qty bc vals →
    writeEnable start qty 7 = false ∧ ∃ i, i < 8 ∧ writeEnable start qty i = true) ∧
  (List.range 8).map (writeEnable 0x0012#16 0x0003#16) = [false, false, true, true, true, false, false, false]

/-- Idempotence: sending the same valid write twice leaves the bank of sending it once, and the two replies are identical
(R61). -/
def Obligations.RepeatedWriteIsIdempotent : Prop :=
  ∀ (start qty : Word) (bc : Byte) (vals : List Word) (s : State), WritesAllowed start qty bc vals →
    ∃ t u, exec (.wmr start qty bc vals) s = .next t ∧ exec (.wmr start qty bc vals) t = .next u ∧
      u.bank = t.bank ∧ (s.bcast = false → ∃ r, r.length = 8 ∧ t.wire = s.wire ++ r ∧ u.wire = s.wire ++ r ++ r)

/-- The CRC over all bytes of a built reply is zero (R192 with R102), for both function rows. -/
def Obligations.BuiltReplyHasZeroResidue : Prop :=
  ∀ (f : Instr) (s : State), f.isFunctionRow = true →
    ∃ t, exec f s = .next t ∧ crc16Modbus t.txbuf.toList 0 t.txLen.toNat = 0x0000#16

/-- The frame of the function rows: registers, buffers, pins, configuration and environment that neither names are
unchanged; ILLEGAL_FUNCTION leaves the bank too; beyond the reply `TXBUF` holds. -/
def Obligations.FunctionRowsFrame : Prop :=
  ∀ (f : Instr) (s t : State), f.isFunctionRow = true → exec f s = .next t →
    t = { s with bank := t.bank, txbuf := t.txbuf, txLen := t.txLen, wire := t.wire } ∧
    (∀ fc, f = .illegalFunction fc → t.bank = s.bank) ∧
    (∀ i : Fin txMax, t.txLen.toNat ≤ i.val → t.txbuf[i] = s.txbuf[i]) ∧
    ∃ r, t.wire = s.wire ++ r ∧ (s.bcast = true → r = [])

/-- The frame of the address rows: nothing but `bcast` changes, and NOT_ADDRESSED leaves that too (R131). -/
def Obligations.AddressRowsFrame : Prop :=
  ∀ (a : Instr) (s t : State), a.isAddressRow = true → exec a s = .next t →
    t = { s with bcast := t.bcast } ∧ (∀ addr, a = .notAddressed addr → t.bcast = s.bcast)

/-! ### The whole machine -/

/-- The invariant is kept by every step from every state that has it (R25, R27, R53, R116, R212, R213). -/
def Obligations.StepKeepsInvariant : Prop :=
  ∀ s u : State, Inv s → step s = .next u → Inv u

/-- The reset state has the invariant. -/
def Obligations.ResetHasInvariant : Prop := Inv State.reset

/-- R212 and R213 (both derived, by the spec, from R210 and R211): from the core's reset values, with any configuration, any transport, clock and schedule of moves, every
reachable state holds values up to 1023 in the bank and 0x0000 in slot 7. -/
def Obligations.ReachableBankInRange : Prop :=
  ∀ (s u : State) (n : Nat), CoreAtReset s → Host.Core.run Sys2Proof.core n s = .next u →
    (∀ i : Fin nreg, u.bank[i].toNat ≤ 1023) ∧ u.bank[7] = 0x0000#16

/-- R211: only two things write the bank, the commit of a granted request in a frame's processing step, and reset. -/
def Obligations.OnlyCommitAndResetWriteBank : Prop :=
  ∀ s u : State, step s = .next u → u.bank ≠ s.bank →
    (∃ level rest, s.schedule = .rst level :: rest ∧ u.bank = Vector.replicate 8 0x0000#16) ∨
    (∃ t, coreTurn s = some t ∧ FrameReady t ∧ (∃ broadcast, frameOutcome t = .success broadcast) ∧
      BankWritten (startField (requestBuf t)) (qtyField (requestBuf t))
        (valFields (requestBuf t) (qtyField (requestBuf t)).toNat) s.bank u.bank)

/-- R194 (derived, by the spec, from R116 and R193): a step hands over at most one reply, in the step that takes the frame it answers: 8 bytes for a unicast success,
5 for a unicast exception. Whatever else a step does, a dropped frame included, it hands over nothing. -/
def Obligations.AtMostOneReplyPerFrame : Prop :=
  ∀ s u : State, step s = .next u → u.wire ≠ s.wire →
    ∃ t r, coreTurn s = some t ∧ FrameReady t ∧ u.wire = s.wire ++ r ∧
      (frameOutcome t = .success false ∧ r.length = 8 ∨
        ∃ code, frameOutcome t = .exception code false ∧ r.length = 5)

/-- No bytes are ever transmitted in answer to a frame whose address byte is 0x00, valid or not (R193, R232). -/
def Obligations.BroadcastIsNeverAnswered : Prop :=
  ∀ (s t : State) (more : List Byte), coreTurn s = some t → FrameReady t → t.rxq = 0x00#8 :: more →
    ∃ u, step s = .next u ∧ u.wire = t.wire

/-- R233: no input halts the block. Every step answers a next state, but for the release of `rst` with a configuration
the spec refuses (R6; the model's reading, log 5); and after every frame `fsm` is IDLE. -/
def Obligations.NoInputHaltsTheBlock : Prop :=
  ∀ s : State,
    ((∃ u, step s = .next u) ∨
      (step s = .refused .illegalConfiguration ∧ s.rst = true ∧ configLegal s.cfg = false ∧
        ∃ rest, s.schedule = .rst false :: rest)) ∧
    (∀ t u, coreTurn s = some t → FrameReady t → step s = .next u → u.fsm = .idle)

/-- R22 and R23: the sample registers are written together, with `Avail()` and `Now()`, by a core step that starts a frame
or sees the count grow (R111, R112), and otherwise only by reset. -/
def Obligations.SampleRegistersFollowGrowth : Prop :=
  ∀ s u : State, step s = .next u →
    (u.sampleCount = s.sampleCount ∧ u.sampleTime = s.sampleTime) ∨
    (∃ t, coreTurn s = some t ∧ u.fsm = .wait ∧ u.sampleCount.toNat = min t.rxq.length 65535 ∧ u.sampleTime = t.now ∧
      (t.fsm = .idle ∧ t.rxq ≠ [] ∨ t.fsm = .wait ∧ t.sampleCount.toNat < u.sampleCount.toNat)) ∨
    (∃ level rest, s.schedule = .rst level :: rest ∧ u.sampleCount = 0#16 ∧ u.sampleTime = 0#32)

/-- A step that neither processes a complete frame nor moves the reset pin leaves the bank, both buffers, their lengths,
`bcast` and `wire` as they were (R20, R24 to R28, R110). -/
def Obligations.OnlyFramesAndResetChangeData : Prop :=
  ∀ s u : State, step s = .next u →
    (∀ t, coreTurn s = some t → ¬ FrameReady t) → (∀ level rest, s.schedule ≠ .rst level :: rest) →
    u.bank = s.bank ∧ u.rxbuf = s.rxbuf ∧ u.rxLen = s.rxLen ∧ u.txbuf = s.txbuf ∧ u.txLen = s.txLen ∧
      u.bcast = s.bcast ∧ u.wire = s.wire

/-- Only `RxTake` of a complete frame removes bytes from the transport; every other step appends or keeps (R40). -/
def Obligations.OnlyFramesLeaveTheQueue : Prop :=
  ∀ s u : State, step s = .next u →
    (∃ bs, u.rxq = s.rxq ++ bs) ∨ (∃ t, coreTurn s = some t ∧ FrameReady t ∧ u.rxq = leftOver t)

/-- R29: no step changes the configuration, and no step but a move of the pin changes `rst`. -/
def Obligations.ConfigurationNeverChanges : Prop :=
  ∀ s u : State, step s = .next u →
    u.cfg = s.cfg ∧ ((∀ level rest, s.schedule ≠ .rst level :: rest) → u.rst = s.rst)

/-! ### Reset and configuration -/

/-- R260: the core elements of the reset state hold the values of R260's table (decision D8, but for the bank's). -/
def Obligations.ResetValues : Prop := CoreAtReset State.reset

/-- R260 (decisions D8 and D19): while `rst` is asserted the core takes no step, and when it is released every core element holds its reset value,
IDLE the control state among them (the release is of an instance whose configuration meets R262's boot requirements). The
reset touches neither the transport's bytes nor the clock (the first sentence of R261). -/
def Obligations.PowerOnReset : Prop :=
  (∀ s t : State, coreTurn s = some t → t.rst = true → step s = .next t) ∧
  (∀ (s : State) (rest : List Move), s.rst = true → configLegal s.cfg = true → s.schedule = .rst false :: rest →
    ∃ u, step s = .next u ∧ CoreAtReset u ∧ u.rst = false ∧ u.rxq = s.rxq ∧ u.now = s.now ∧ u.wire = s.wire ∧
      u.cfg = s.cfg ∧ u.schedule = rest) ∧
  (∀ (s : State) (rest : List Move), s.schedule = .rst true :: rest →
    ∃ u, step s = .next u ∧ u.rst = true ∧ u.rxq = s.rxq ∧ u.now = s.now ∧ u.wire = s.wire ∧ u.cfg = s.cfg ∧
      u.schedule = rest)

/-- A configuration with `DEV_ADDR = 0x00` is refused when the block would start with it (R6; that the refusal stands at
the release of `rst` is the model's choice, log 5). -/
def Obligations.ZeroAddressIsRefused : Prop :=
  ∀ (s : State) (rest : List Move), s.rst = true → s.cfg.devAddr = 0x00#8 → s.schedule = .rst false :: rest →
    step s = .refused .illegalConfiguration

/-- R8 (decision D3): `T35_MS = ceil(38500 / BAUD) + 1`, for every positive baud rate. -/
def Obligations.ThresholdFromBaudRate : Prop :=
  ∀ (dev : Byte) (baud : Nat), 1 ≤ baud →
    ((configOf dev baud).t35Ms : Int) = ⌈(38500 : ℚ) / (baud : ℚ)⌉ + 1

/-- R268: the values of `T35_MS` by baud rate. -/
def Obligations.ThresholdTable : Prop :=
  [1200, 2400, 4800, 9600, 19200, 38400, 57600, 115200].map t35OfBaud = [34, 18, 10, 6, 4, 3, 2, 2]

/-- Sanity, V-WMR-1: on the instance at 0x01 the worked request writes 100 and 200 and is answered with the worked reply. -/
def Obligations.WorkedWriteExample : Prop :=
  ∀ s : State, s.cfg = configOf 0x01#8 9600 →
    ∃ u, step (s.atFrame [0x01#8, 0x10#8, 0x00#8, 0x10#8, 0x00#8, 0x02#8, 0x04#8, 0x00#8, 0x64#8, 0x00#8, 0xC8#8,
        0xB2#8, 0xEA#8]) = .next u ∧
      u.bank[0] = 100#16 ∧ u.bank[1] = 200#16 ∧ (∀ i : Fin nreg, 2 ≤ i.val → u.bank[i] = s.bank[i]) ∧
      u.wire = s.wire ++ [0x01#8, 0x10#8, 0x00#8, 0x10#8, 0x00#8, 0x02#8, 0x40#8, 0x0D#8]
end

