-- ==== Sys2Proof/Laws/Crc.lean ====
section
/-! SUPPORT. Laws of the CRC generator (40_crc16.md). -/
namespace Sys2Proof.Machine

/-- One more byte at the end is one more `crcByte`. -/
theorem crc16_append_byte (bs : List Byte) (b : Byte) : crc16 (bs ++ [b]) = crcByte (crc16 bs) b := by
  simp [crc16, List.foldl_append]

/-- `crc16_modbus` over the whole of a buffer is the CRC of its bytes. -/
theorem crc16Modbus_all (bs : List Byte) : crc16Modbus bs 0 bs.length = crc16 bs := by simp [crc16Modbus]

/-- `crc16_modbus` from index 0 is the CRC of the first `n` bytes. -/
theorem crc16Modbus_zero (bs : List Byte) (n : Nat) : crc16Modbus bs 0 n = crc16 (bs.take n) := by simp [crc16Modbus]

@[simp] theorem crcTrailer_length (p : List Byte) : (crcTrailer p).length = 2 := rfl

/-- A round that shifts out a 0 is a plain shift. -/
theorem crcRound_even (c : Word) (h : c.getLsbD 0 = false) : crcRound c = c >>> 1 := by
  unfold crcRound
  rw [h]
  rfl

/-- Rounds that shift out only zeros are a plain shift. -/
theorem crcRounds_shift (n : Nat) (c : Word) (h : ∀ i, i < n → c.getLsbD i = false) : crcRounds n c = c >>> n := by
  induction n generalizing c with
  | zero => simp [crcRounds]
  | succ n ih =>
    rw [crcRounds, crcRound_even c (h 0 (by omega)), ih]
    · rw [Nat.add_comm, BitVec.shiftRight_add]
    · intro i hi
      simpa [BitVec.getLsbD_ushiftRight, Nat.add_comm] using h (i + 1) (by omega)

end Sys2Proof.Machine
end

