-- ==== Sys2Proof/Laws/Operands.lean ====
section
/-! SUPPORT. Laws of the fields, the frame copy and the encoder (20_memory.md R55; 30_encoding.md; R118). -/
namespace Sys2Proof.Machine

@[simp] theorem be16Bytes_length (v : Word) : (be16Bytes v).length = 2 := rfl

/-- The value of a field is the arithmetic one: high byte times 256 plus low byte (R17). -/
theorem be16_toNat (hi lo : Byte) : (be16 hi lo).toNat = hi.toNat * 256 + lo.toNat := by
  have h := lo.isLt
  simp only [be16, BitVec.toNat_append]
  rw [Nat.shiftLeft_eq, Nat.mul_comm, ← Nat.two_pow_add_eq_or_of_lt h, Nat.mul_comm]

@[simp] theorem be16_hi_lo (v : Word) : be16 (hiByte v) (loByte v) = v := by
  have h := v.isLt
  apply BitVec.eq_of_toNat_eq
  simp only [be16_toNat, hiByte, loByte, BitVec.extractLsb'_toNat, Nat.shiftRight_eq_div_pow]
  omega

/-- Writing `bs` from index `n` on replaces exactly those bytes of a buffer. -/
theorem putAll_toList {size : Nat} (bs : List Byte) (n : Nat) (buf : Vector Byte size) (h : n + bs.length ≤ size) :
    (putAll bs n buf).toList = buf.toList.take n ++ bs ++ buf.toList.drop (n + bs.length) := by
  induction bs generalizing n buf with
  | nil => simp [putAll]
  | cons b bs ih =>
    have hn : n < size := by simp at h; omega
    rw [putAll, ih (n + 1) _ (by simp at h; omega)]
    have hset : (buf.setIfInBounds n b).toList = buf.toList.take n ++ b :: buf.toList.drop (n + 1) := by
      rw [Vector.toList_setIfInBounds, List.set_eq_take_append_cons_drop]
      simp [hn]
    have hlen : (buf.toList.take n).length = n := by simp; omega
    have htake : (buf.setIfInBounds n b).toList.take (n + 1) = buf.toList.take n ++ [b] := by
      rw [hset, List.take_append, hlen, List.take_of_length_le (by omega)]
      simp
    have hdrop : (buf.setIfInBounds n b).toList.drop (n + 1 + bs.length) = buf.toList.drop (n + (b :: bs).length) := by
      rw [hset, List.drop_append, hlen, List.drop_eq_nil_of_le (by omega)]
      rw [show n + 1 + bs.length - n = bs.length + 1 by omega]
      simp only [List.nil_append, List.drop_succ_cons, List.drop_drop, List.length_cons]
      congr 1
      omega
    rw [htake, hdrop]
    simp

/-- Byte `i` of a buffer after `bs` was written from index `n` on. -/
theorem putAll_getElem {size : Nat} (bs : List Byte) (n : Nat) (buf : Vector Byte size) (i : Nat) (hi : i < size) :
    (putAll bs n buf)[i] = if n ≤ i ∧ i < n + bs.length then bs.getD (i - n) 0#8 else buf[i] := by
  induction bs generalizing n buf with
  | nil => simp only [putAll, List.length_nil, Nat.add_zero]; rw [if_neg (by omega)]
  | cons b bs ih =>
    rw [putAll, ih, Vector.getElem_setIfInBounds hi]
    simp only [List.length_cons]
    by_cases h1 : n + 1 ≤ i ∧ i < n + 1 + bs.length
    · rw [if_pos h1, if_pos (by omega), show i - n = (i - (n + 1)) + 1 by omega]
      simp
    · rw [if_neg h1]
      by_cases h2 : n = i
      · subst h2
        simp
      · rw [if_neg h2, if_neg (by omega)]

/-- Byte `i` of the request buffer after the frame copy: the frame's byte, or the byte that was there (R118). -/
theorem overlay_getElem (bs : List Byte) (buf : RxBuf) (i : Nat) (hi : i < rxMax) :
    (overlay bs buf)[i] = if i < bs.length then bs.getD i 0#8 else buf[i] := by
  rw [overlay, putAll_getElem]
  simp

theorem rxByte_eq (buf : RxBuf) (i : Nat) (hi : i < rxMax) : rxByte buf i = buf[i] := by
  simp [rxByte, hi]

/-- Byte `i` of the request buffer after the frame copy, by the total reader. -/
theorem rxByte_overlay (bs : List Byte) (buf : RxBuf) (i : Nat) (hi : i < rxMax) :
    rxByte (overlay bs buf) i = if i < bs.length then bs.getD i 0#8 else rxByte buf i := by
  rw [rxByte_eq _ _ hi, overlay_getElem _ _ _ hi, rxByte_eq _ _ hi]

/-- The first `len` bytes after the frame copy are the frame (R118). -/
theorem overlay_take (bs : List Byte) (buf : RxBuf) (h : bs.length ≤ rxMax) :
    (overlay bs buf).toList.take bs.length = bs := by
  simp [overlay, putAll_toList bs 0 buf (by omega)]

@[simp] theorem valFields_length (buf : RxBuf) (n : Nat) : (valFields buf n).length = n := by simp [valFields]

theorem valFields_getD (buf : RxBuf) (n k : Nat) (h : k < n) : (valFields buf n).getD k 0#16 = valField buf k := by
  simp [valFields, h]

/-- The row of every address byte is an address row, and it is well formed (R78). -/
theorem decodeAddress_wellFormed (dev b : Byte) :
    (decodeAddress dev b).isAddressRow = true ∧ (decodeAddress dev b).wellFormed dev = true := by
  unfold decodeAddress
  split
  · simp [Instr.isAddressRow, Instr.wellFormed]
  · split <;> simp_all [Instr.isAddressRow, Instr.wellFormed]

/-- The row of every request buffer is a function row, and it is well formed (R77). -/
theorem decodeFunction_wellFormed (dev : Byte) (buf : RxBuf) :
    (decodeFunction buf).isFunctionRow = true ∧ (decodeFunction buf).wellFormed dev = true := by
  unfold decodeFunction
  split <;> simp_all [Instr.isFunctionRow, Instr.wellFormed]

end Sys2Proof.Machine
end

