-- ==== Sys2Proof/Laws/State.lean ====
section
/-! SUPPORT. One lemma per field per update: what each named update writes and what it leaves, true by `rfl`. -/
namespace Sys2Proof.Machine

variable (s : State)

/-! ### `State.clearBcast` -/

@[simp] theorem State.clearBcast_bank : s.clearBcast.bank = s.bank := rfl
@[simp] theorem State.clearBcast_fsm : s.clearBcast.fsm = s.fsm := rfl
@[simp] theorem State.clearBcast_sampleCount : s.clearBcast.sampleCount = s.sampleCount := rfl
@[simp] theorem State.clearBcast_sampleTime : s.clearBcast.sampleTime = s.sampleTime := rfl
@[simp] theorem State.clearBcast_rxbuf : s.clearBcast.rxbuf = s.rxbuf := rfl
@[simp] theorem State.clearBcast_rxLen : s.clearBcast.rxLen = s.rxLen := rfl
@[simp] theorem State.clearBcast_txbuf : s.clearBcast.txbuf = s.txbuf := rfl
@[simp] theorem State.clearBcast_txLen : s.clearBcast.txLen = s.txLen := rfl
@[simp] theorem State.clearBcast_bcast : s.clearBcast.bcast = false := rfl
@[simp] theorem State.clearBcast_rst : s.clearBcast.rst = s.rst := rfl
@[simp] theorem State.clearBcast_cfg : s.clearBcast.cfg = s.cfg := rfl
@[simp] theorem State.clearBcast_rxq : s.clearBcast.rxq = s.rxq := rfl
@[simp] theorem State.clearBcast_wire : s.clearBcast.wire = s.wire := rfl
@[simp] theorem State.clearBcast_now : s.clearBcast.now = s.now := rfl
@[simp] theorem State.clearBcast_schedule : s.clearBcast.schedule = s.schedule := rfl

/-! ### `State.setBcast` -/

@[simp] theorem State.setBcast_bank (b : Bool) : (s.setBcast b).bank = s.bank := rfl
@[simp] theorem State.setBcast_fsm (b : Bool) : (s.setBcast b).fsm = s.fsm := rfl
@[simp] theorem State.setBcast_sampleCount (b : Bool) : (s.setBcast b).sampleCount = s.sampleCount := rfl
@[simp] theorem State.setBcast_sampleTime (b : Bool) : (s.setBcast b).sampleTime = s.sampleTime := rfl
@[simp] theorem State.setBcast_rxbuf (b : Bool) : (s.setBcast b).rxbuf = s.rxbuf := rfl
@[simp] theorem State.setBcast_rxLen (b : Bool) : (s.setBcast b).rxLen = s.rxLen := rfl
@[simp] theorem State.setBcast_txbuf (b : Bool) : (s.setBcast b).txbuf = s.txbuf := rfl
@[simp] theorem State.setBcast_txLen (b : Bool) : (s.setBcast b).txLen = s.txLen := rfl
@[simp] theorem State.setBcast_bcast (b : Bool) : (s.setBcast b).bcast = b := rfl
@[simp] theorem State.setBcast_rst (b : Bool) : (s.setBcast b).rst = s.rst := rfl
@[simp] theorem State.setBcast_cfg (b : Bool) : (s.setBcast b).cfg = s.cfg := rfl
@[simp] theorem State.setBcast_rxq (b : Bool) : (s.setBcast b).rxq = s.rxq := rfl
@[simp] theorem State.setBcast_wire (b : Bool) : (s.setBcast b).wire = s.wire := rfl
@[simp] theorem State.setBcast_now (b : Bool) : (s.setBcast b).now = s.now := rfl
@[simp] theorem State.setBcast_schedule (b : Bool) : (s.setBcast b).schedule = s.schedule := rfl

/-! ### `State.sample` -/

@[simp] theorem State.sample_bank : s.sample.bank = s.bank := rfl
@[simp] theorem State.sample_fsm : s.sample.fsm = s.fsm := rfl
@[simp] theorem State.sample_sampleCount : s.sample.sampleCount = avail s := rfl
@[simp] theorem State.sample_sampleTime : s.sample.sampleTime = s.now := rfl
@[simp] theorem State.sample_rxbuf : s.sample.rxbuf = s.rxbuf := rfl
@[simp] theorem State.sample_rxLen : s.sample.rxLen = s.rxLen := rfl
@[simp] theorem State.sample_txbuf : s.sample.txbuf = s.txbuf := rfl
@[simp] theorem State.sample_txLen : s.sample.txLen = s.txLen := rfl
@[simp] theorem State.sample_bcast : s.sample.bcast = s.bcast := rfl
@[simp] theorem State.sample_rst : s.sample.rst = s.rst := rfl
@[simp] theorem State.sample_cfg : s.sample.cfg = s.cfg := rfl
@[simp] theorem State.sample_rxq : s.sample.rxq = s.rxq := rfl
@[simp] theorem State.sample_wire : s.sample.wire = s.wire := rfl
@[simp] theorem State.sample_now : s.sample.now = s.now := rfl
@[simp] theorem State.sample_schedule : s.sample.schedule = s.schedule := rfl

/-! ### `State.setFsm` -/

@[simp] theorem State.setFsm_bank (f : Fsm) : (s.setFsm f).bank = s.bank := rfl
@[simp] theorem State.setFsm_fsm (f : Fsm) : (s.setFsm f).fsm = f := rfl
@[simp] theorem State.setFsm_sampleCount (f : Fsm) : (s.setFsm f).sampleCount = s.sampleCount := rfl
@[simp] theorem State.setFsm_sampleTime (f : Fsm) : (s.setFsm f).sampleTime = s.sampleTime := rfl
@[simp] theorem State.setFsm_rxbuf (f : Fsm) : (s.setFsm f).rxbuf = s.rxbuf := rfl
@[simp] theorem State.setFsm_rxLen (f : Fsm) : (s.setFsm f).rxLen = s.rxLen := rfl
@[simp] theorem State.setFsm_txbuf (f : Fsm) : (s.setFsm f).txbuf = s.txbuf := rfl
@[simp] theorem State.setFsm_txLen (f : Fsm) : (s.setFsm f).txLen = s.txLen := rfl
@[simp] theorem State.setFsm_bcast (f : Fsm) : (s.setFsm f).bcast = s.bcast := rfl
@[simp] theorem State.setFsm_rst (f : Fsm) : (s.setFsm f).rst = s.rst := rfl
@[simp] theorem State.setFsm_cfg (f : Fsm) : (s.setFsm f).cfg = s.cfg := rfl
@[simp] theorem State.setFsm_rxq (f : Fsm) : (s.setFsm f).rxq = s.rxq := rfl
@[simp] theorem State.setFsm_wire (f : Fsm) : (s.setFsm f).wire = s.wire := rfl
@[simp] theorem State.setFsm_now (f : Fsm) : (s.setFsm f).now = s.now := rfl
@[simp] theorem State.setFsm_schedule (f : Fsm) : (s.setFsm f).schedule = s.schedule := rfl

/-! ### `State.rxTake` -/

@[simp] theorem State.rxTake_bank (n : Nat) : (s.rxTake n).bank = s.bank := rfl
@[simp] theorem State.rxTake_fsm (n : Nat) : (s.rxTake n).fsm = s.fsm := rfl
@[simp] theorem State.rxTake_sampleCount (n : Nat) : (s.rxTake n).sampleCount = s.sampleCount := rfl
@[simp] theorem State.rxTake_sampleTime (n : Nat) : (s.rxTake n).sampleTime = s.sampleTime := rfl
@[simp] theorem State.rxTake_rxbuf (n : Nat) : (s.rxTake n).rxbuf = s.rxbuf := rfl
@[simp] theorem State.rxTake_rxLen (n : Nat) : (s.rxTake n).rxLen = s.rxLen := rfl
@[simp] theorem State.rxTake_txbuf (n : Nat) : (s.rxTake n).txbuf = s.txbuf := rfl
@[simp] theorem State.rxTake_txLen (n : Nat) : (s.rxTake n).txLen = s.txLen := rfl
@[simp] theorem State.rxTake_bcast (n : Nat) : (s.rxTake n).bcast = s.bcast := rfl
@[simp] theorem State.rxTake_rst (n : Nat) : (s.rxTake n).rst = s.rst := rfl
@[simp] theorem State.rxTake_cfg (n : Nat) : (s.rxTake n).cfg = s.cfg := rfl
@[simp] theorem State.rxTake_rxq (n : Nat) : (s.rxTake n).rxq = s.rxq.drop n := rfl
@[simp] theorem State.rxTake_wire (n : Nat) : (s.rxTake n).wire = s.wire := rfl
@[simp] theorem State.rxTake_now (n : Nat) : (s.rxTake n).now = s.now := rfl
@[simp] theorem State.rxTake_schedule (n : Nat) : (s.rxTake n).schedule = s.schedule := rfl

/-! ### `State.txWrite` -/

@[simp] theorem State.txWrite_bank (bs : List Byte) : (s.txWrite bs).bank = s.bank := rfl
@[simp] theorem State.txWrite_fsm (bs : List Byte) : (s.txWrite bs).fsm = s.fsm := rfl
@[simp] theorem State.txWrite_sampleCount (bs : List Byte) : (s.txWrite bs).sampleCount = s.sampleCount := rfl
@[simp] theorem State.txWrite_sampleTime (bs : List Byte) : (s.txWrite bs).sampleTime = s.sampleTime := rfl
@[simp] theorem State.txWrite_rxbuf (bs : List Byte) : (s.txWrite bs).rxbuf = s.rxbuf := rfl
@[simp] theorem State.txWrite_rxLen (bs : List Byte) : (s.txWrite bs).rxLen = s.rxLen := rfl
@[simp] theorem State.txWrite_txbuf (bs : List Byte) : (s.txWrite bs).txbuf = s.txbuf := rfl
@[simp] theorem State.txWrite_txLen (bs : List Byte) : (s.txWrite bs).txLen = s.txLen := rfl
@[simp] theorem State.txWrite_bcast (bs : List Byte) : (s.txWrite bs).bcast = s.bcast := rfl
@[simp] theorem State.txWrite_rst (bs : List Byte) : (s.txWrite bs).rst = s.rst := rfl
@[simp] theorem State.txWrite_cfg (bs : List Byte) : (s.txWrite bs).cfg = s.cfg := rfl
@[simp] theorem State.txWrite_rxq (bs : List Byte) : (s.txWrite bs).rxq = s.rxq := rfl
@[simp] theorem State.txWrite_wire (bs : List Byte) : (s.txWrite bs).wire = s.wire ++ bs := rfl
@[simp] theorem State.txWrite_now (bs : List Byte) : (s.txWrite bs).now = s.now := rfl
@[simp] theorem State.txWrite_schedule (bs : List Byte) : (s.txWrite bs).schedule = s.schedule := rfl

/-! ### `State.copyFrame` -/

@[simp] theorem State.copyFrame_bank (bs : List Byte) : (s.copyFrame bs).bank = s.bank := rfl
@[simp] theorem State.copyFrame_fsm (bs : List Byte) : (s.copyFrame bs).fsm = s.fsm := rfl
@[simp] theorem State.copyFrame_sampleCount (bs : List Byte) : (s.copyFrame bs).sampleCount = s.sampleCount := rfl
@[simp] theorem State.copyFrame_sampleTime (bs : List Byte) : (s.copyFrame bs).sampleTime = s.sampleTime := rfl
@[simp] theorem State.copyFrame_rxbuf (bs : List Byte) : (s.copyFrame bs).rxbuf = overlay bs s.rxbuf := rfl
@[simp] theorem State.copyFrame_rxLen (bs : List Byte) : (s.copyFrame bs).rxLen = BitVec.ofNat 6 bs.length := rfl
@[simp] theorem State.copyFrame_txbuf (bs : List Byte) : (s.copyFrame bs).txbuf = s.txbuf := rfl
@[simp] theorem State.copyFrame_txLen (bs : List Byte) : (s.copyFrame bs).txLen = s.txLen := rfl
@[simp] theorem State.copyFrame_bcast (bs : List Byte) : (s.copyFrame bs).bcast = s.bcast := rfl
@[simp] theorem State.copyFrame_rst (bs : List Byte) : (s.copyFrame bs).rst = s.rst := rfl
@[simp] theorem State.copyFrame_cfg (bs : List Byte) : (s.copyFrame bs).cfg = s.cfg := rfl
@[simp] theorem State.copyFrame_rxq (bs : List Byte) : (s.copyFrame bs).rxq = s.rxq := rfl
@[simp] theorem State.copyFrame_wire (bs : List Byte) : (s.copyFrame bs).wire = s.wire := rfl
@[simp] theorem State.copyFrame_now (bs : List Byte) : (s.copyFrame bs).now = s.now := rfl
@[simp] theorem State.copyFrame_schedule (bs : List Byte) : (s.copyFrame bs).schedule = s.schedule := rfl

/-! ### `State.commit` -/

@[simp] theorem State.commit_bank (start qty : Word) (vals : List Word) : (s.commit start qty vals).bank = commitBank start qty vals s.bank := rfl
@[simp] theorem State.commit_fsm (start qty : Word) (vals : List Word) : (s.commit start qty vals).fsm = s.fsm := rfl
@[simp] theorem State.commit_sampleCount (start qty : Word) (vals : List Word) : (s.commit start qty vals).sampleCount = s.sampleCount := rfl
@[simp] theorem State.commit_sampleTime (start qty : Word) (vals : List Word) : (s.commit start qty vals).sampleTime = s.sampleTime := rfl
@[simp] theorem State.commit_rxbuf (start qty : Word) (vals : List Word) : (s.commit start qty vals).rxbuf = s.rxbuf := rfl
@[simp] theorem State.commit_rxLen (start qty : Word) (vals : List Word) : (s.commit start qty vals).rxLen = s.rxLen := rfl
@[simp] theorem State.commit_txbuf (start qty : Word) (vals : List Word) : (s.commit start qty vals).txbuf = s.txbuf := rfl
@[simp] theorem State.commit_txLen (start qty : Word) (vals : List Word) : (s.commit start qty vals).txLen = s.txLen := rfl
@[simp] theorem State.commit_bcast (start qty : Word) (vals : List Word) : (s.commit start qty vals).bcast = s.bcast := rfl
@[simp] theorem State.commit_rst (start qty : Word) (vals : List Word) : (s.commit start qty vals).rst = s.rst := rfl
@[simp] theorem State.commit_cfg (start qty : Word) (vals : List Word) : (s.commit start qty vals).cfg = s.cfg := rfl
@[simp] theorem State.commit_rxq (start qty : Word) (vals : List Word) : (s.commit start qty vals).rxq = s.rxq := rfl
@[simp] theorem State.commit_wire (start qty : Word) (vals : List Word) : (s.commit start qty vals).wire = s.wire := rfl
@[simp] theorem State.commit_now (start qty : Word) (vals : List Word) : (s.commit start qty vals).now = s.now := rfl
@[simp] theorem State.commit_schedule (start qty : Word) (vals : List Word) : (s.commit start qty vals).schedule = s.schedule := rfl

/-! ### `State.fill` -/

@[simp] theorem State.fill_bank (p : List Byte) : (s.fill p).bank = s.bank := rfl
@[simp] theorem State.fill_fsm (p : List Byte) : (s.fill p).fsm = s.fsm := rfl
@[simp] theorem State.fill_sampleCount (p : List Byte) : (s.fill p).sampleCount = s.sampleCount := rfl
@[simp] theorem State.fill_sampleTime (p : List Byte) : (s.fill p).sampleTime = s.sampleTime := rfl
@[simp] theorem State.fill_rxbuf (p : List Byte) : (s.fill p).rxbuf = s.rxbuf := rfl
@[simp] theorem State.fill_rxLen (p : List Byte) : (s.fill p).rxLen = s.rxLen := rfl
@[simp] theorem State.fill_txbuf (p : List Byte) : (s.fill p).txbuf = putAll p 0 s.txbuf := rfl
@[simp] theorem State.fill_txLen (p : List Byte) : (s.fill p).txLen = s.txLen := rfl
@[simp] theorem State.fill_bcast (p : List Byte) : (s.fill p).bcast = s.bcast := rfl
@[simp] theorem State.fill_rst (p : List Byte) : (s.fill p).rst = s.rst := rfl
@[simp] theorem State.fill_cfg (p : List Byte) : (s.fill p).cfg = s.cfg := rfl
@[simp] theorem State.fill_rxq (p : List Byte) : (s.fill p).rxq = s.rxq := rfl
@[simp] theorem State.fill_wire (p : List Byte) : (s.fill p).wire = s.wire := rfl
@[simp] theorem State.fill_now (p : List Byte) : (s.fill p).now = s.now := rfl
@[simp] theorem State.fill_schedule (p : List Byte) : (s.fill p).schedule = s.schedule := rfl

/-! ### `State.appendCrc` -/

@[simp] theorem State.appendCrc_bank (n : Nat) : (s.appendCrc n).bank = s.bank := rfl
@[simp] theorem State.appendCrc_fsm (n : Nat) : (s.appendCrc n).fsm = s.fsm := rfl
@[simp] theorem State.appendCrc_sampleCount (n : Nat) : (s.appendCrc n).sampleCount = s.sampleCount := rfl
@[simp] theorem State.appendCrc_sampleTime (n : Nat) : (s.appendCrc n).sampleTime = s.sampleTime := rfl
@[simp] theorem State.appendCrc_rxbuf (n : Nat) : (s.appendCrc n).rxbuf = s.rxbuf := rfl
@[simp] theorem State.appendCrc_rxLen (n : Nat) : (s.appendCrc n).rxLen = s.rxLen := rfl
@[simp] theorem State.appendCrc_txbuf (n : Nat) : (s.appendCrc n).txbuf = putAll (crcTrailer (s.txbuf.toList.take n)) n s.txbuf := rfl
@[simp] theorem State.appendCrc_txLen (n : Nat) : (s.appendCrc n).txLen = BitVec.ofNat 4 (n + 2) := rfl
@[simp] theorem State.appendCrc_bcast (n : Nat) : (s.appendCrc n).bcast = s.bcast := rfl
@[simp] theorem State.appendCrc_rst (n : Nat) : (s.appendCrc n).rst = s.rst := rfl
@[simp] theorem State.appendCrc_cfg (n : Nat) : (s.appendCrc n).cfg = s.cfg := rfl
@[simp] theorem State.appendCrc_rxq (n : Nat) : (s.appendCrc n).rxq = s.rxq := rfl
@[simp] theorem State.appendCrc_wire (n : Nat) : (s.appendCrc n).wire = s.wire := rfl
@[simp] theorem State.appendCrc_now (n : Nat) : (s.appendCrc n).now = s.now := rfl
@[simp] theorem State.appendCrc_schedule (n : Nat) : (s.appendCrc n).schedule = s.schedule := rfl

/-! ### `State.receive` -/

@[simp] theorem State.receive_bank (bs : List Byte) : (s.receive bs).bank = s.bank := rfl
@[simp] theorem State.receive_fsm (bs : List Byte) : (s.receive bs).fsm = s.fsm := rfl
@[simp] theorem State.receive_sampleCount (bs : List Byte) : (s.receive bs).sampleCount = s.sampleCount := rfl
@[simp] theorem State.receive_sampleTime (bs : List Byte) : (s.receive bs).sampleTime = s.sampleTime := rfl
@[simp] theorem State.receive_rxbuf (bs : List Byte) : (s.receive bs).rxbuf = s.rxbuf := rfl
@[simp] theorem State.receive_rxLen (bs : List Byte) : (s.receive bs).rxLen = s.rxLen := rfl
@[simp] theorem State.receive_txbuf (bs : List Byte) : (s.receive bs).txbuf = s.txbuf := rfl
@[simp] theorem State.receive_txLen (bs : List Byte) : (s.receive bs).txLen = s.txLen := rfl
@[simp] theorem State.receive_bcast (bs : List Byte) : (s.receive bs).bcast = s.bcast := rfl
@[simp] theorem State.receive_rst (bs : List Byte) : (s.receive bs).rst = s.rst := rfl
@[simp] theorem State.receive_cfg (bs : List Byte) : (s.receive bs).cfg = s.cfg := rfl
@[simp] theorem State.receive_rxq (bs : List Byte) : (s.receive bs).rxq = s.rxq ++ bs := rfl
@[simp] theorem State.receive_wire (bs : List Byte) : (s.receive bs).wire = s.wire := rfl
@[simp] theorem State.receive_now (bs : List Byte) : (s.receive bs).now = s.now := rfl
@[simp] theorem State.receive_schedule (bs : List Byte) : (s.receive bs).schedule = s.schedule := rfl

/-! ### `State.tick` -/

@[simp] theorem State.tick_bank (ms : Nat) : (s.tick ms).bank = s.bank := rfl
@[simp] theorem State.tick_fsm (ms : Nat) : (s.tick ms).fsm = s.fsm := rfl
@[simp] theorem State.tick_sampleCount (ms : Nat) : (s.tick ms).sampleCount = s.sampleCount := rfl
@[simp] theorem State.tick_sampleTime (ms : Nat) : (s.tick ms).sampleTime = s.sampleTime := rfl
@[simp] theorem State.tick_rxbuf (ms : Nat) : (s.tick ms).rxbuf = s.rxbuf := rfl
@[simp] theorem State.tick_rxLen (ms : Nat) : (s.tick ms).rxLen = s.rxLen := rfl
@[simp] theorem State.tick_txbuf (ms : Nat) : (s.tick ms).txbuf = s.txbuf := rfl
@[simp] theorem State.tick_txLen (ms : Nat) : (s.tick ms).txLen = s.txLen := rfl
@[simp] theorem State.tick_bcast (ms : Nat) : (s.tick ms).bcast = s.bcast := rfl
@[simp] theorem State.tick_rst (ms : Nat) : (s.tick ms).rst = s.rst := rfl
@[simp] theorem State.tick_cfg (ms : Nat) : (s.tick ms).cfg = s.cfg := rfl
@[simp] theorem State.tick_rxq (ms : Nat) : (s.tick ms).rxq = s.rxq := rfl
@[simp] theorem State.tick_wire (ms : Nat) : (s.tick ms).wire = s.wire := rfl
@[simp] theorem State.tick_now (ms : Nat) : (s.tick ms).now = s.now + BitVec.ofNat 32 ms := rfl
@[simp] theorem State.tick_schedule (ms : Nat) : (s.tick ms).schedule = s.schedule := rfl

/-! ### `State.coreReset` -/

@[simp] theorem State.coreReset_bank : s.coreReset.bank = Vector.replicate nreg 0x0000#16 := rfl
@[simp] theorem State.coreReset_fsm : s.coreReset.fsm = .idle := rfl
@[simp] theorem State.coreReset_sampleCount : s.coreReset.sampleCount = 0#16 := rfl
@[simp] theorem State.coreReset_sampleTime : s.coreReset.sampleTime = 0#32 := rfl
@[simp] theorem State.coreReset_rxbuf : s.coreReset.rxbuf = Vector.replicate rxMax 0x00#8 := rfl
@[simp] theorem State.coreReset_rxLen : s.coreReset.rxLen = 0#6 := rfl
@[simp] theorem State.coreReset_txbuf : s.coreReset.txbuf = Vector.replicate txMax 0x00#8 := rfl
@[simp] theorem State.coreReset_txLen : s.coreReset.txLen = 0#4 := rfl
@[simp] theorem State.coreReset_bcast : s.coreReset.bcast = false := rfl
@[simp] theorem State.coreReset_rst : s.coreReset.rst = s.rst := rfl
@[simp] theorem State.coreReset_cfg : s.coreReset.cfg = s.cfg := rfl
@[simp] theorem State.coreReset_rxq : s.coreReset.rxq = s.rxq := rfl
@[simp] theorem State.coreReset_wire : s.coreReset.wire = s.wire := rfl
@[simp] theorem State.coreReset_now : s.coreReset.now = s.now := rfl
@[simp] theorem State.coreReset_schedule : s.coreReset.schedule = s.schedule := rfl

end Sys2Proof.Machine
end

