-- ==== Sys2Proof/Laws/Ops.lean ====
section
/-! SUPPORT. One lemma per shared operation that says everything it does: the response builder, the commit, taking an
exception, and the meanings of the five rows. -/
namespace Sys2Proof.Machine

open Sys2Proof.Safety

/-! ### `TXBUF` and the response builder -/

theorem State.transmit_eq (s : State) :
    s.transmit = { s with wire := if s.bcast then s.wire else s.wire ++ txBytes s } := by
  unfold State.transmit
  split
  · rfl
  · rfl

/-- The reply of a payload: the payload and its CRC, low byte first (R75). -/
theorem withTrailer_eq (p : List Byte) : withTrailer p = p ++ crcTrailer p := by
  simp [withTrailer, crc16Modbus_all, crcTrailer]

@[simp] theorem withTrailer_length (p : List Byte) : (withTrailer p).length = p.length + 2 := by
  simp [withTrailer_eq]

/-- EVERYTHING the response builder does (R190 to R193): the reply stands in `TXBUF`, is sent unless broadcast, and
nothing else changes. -/
theorem State.respond_replied (p : List Byte) (s : State) (h : p.length + 2 ≤ txMax) :
    Replied (withTrailer p) s (s.respond p) := by
  have hp : (s.fill p).txbuf.toList = p ++ s.txbuf.toList.drop p.length := by
    simp [State.fill_txbuf, putAll_toList p 0 s.txbuf (by omega)]
  have htx : ((s.fill p).appendCrc p.length).txbuf.toList = withTrailer p ++ s.txbuf.toList.drop (withTrailer p).length := by
    rw [State.appendCrc_txbuf, putAll_toList _ _ _ (by simpa using h), hp, withTrailer_eq]
    simp [List.drop_append, List.drop_eq_nil_of_le]
  have hlen : ((s.fill p).appendCrc p.length).txLen.toNat = (withTrailer p).length := by
    simp only [State.appendCrc_txLen, BitVec.toNat_ofNat, withTrailer_length]
    apply Nat.mod_eq_of_lt
    simp only [txMax] at h
    omega
  have hbytes : txBytes ((s.fill p).appendCrc p.length) = withTrailer p := by
    rw [txBytes, htx, hlen]
    simp
  unfold State.respond
  rw [State.transmit_eq]
  exact ⟨htx, hlen, by simp [hbytes], rfl⟩

section Respond

variable (p : List Byte) (s : State)

@[simp] theorem State.respond_bank : (s.respond p).bank = s.bank := by simp [State.respond, State.transmit_eq]
@[simp] theorem State.respond_fsm : (s.respond p).fsm = s.fsm := by simp [State.respond, State.transmit_eq]
@[simp] theorem State.respond_sampleCount : (s.respond p).sampleCount = s.sampleCount := by
  simp [State.respond, State.transmit_eq]
@[simp] theorem State.respond_sampleTime : (s.respond p).sampleTime = s.sampleTime := by
  simp [State.respond, State.transmit_eq]
@[simp] theorem State.respond_rxbuf : (s.respond p).rxbuf = s.rxbuf := by simp [State.respond, State.transmit_eq]
@[simp] theorem State.respond_rxLen : (s.respond p).rxLen = s.rxLen := by simp [State.respond, State.transmit_eq]
@[simp] theorem State.respond_bcast : (s.respond p).bcast = s.bcast := by simp [State.respond, State.transmit_eq]
@[simp] theorem State.respond_rst : (s.respond p).rst = s.rst := by simp [State.respond, State.transmit_eq]
@[simp] theorem State.respond_cfg : (s.respond p).cfg = s.cfg := by simp [State.respond, State.transmit_eq]
@[simp] theorem State.respond_rxq : (s.respond p).rxq = s.rxq := by simp [State.respond, State.transmit_eq]
@[simp] theorem State.respond_now : (s.respond p).now = s.now := by simp [State.respond, State.transmit_eq]
@[simp] theorem State.respond_schedule : (s.respond p).schedule = s.schedule := by
  simp [State.respond, State.transmit_eq]

end Respond

theorem exceptionReply_eq (e : ModbusException) (buf : RxBuf) :
    exceptionReply e.code buf = withTrailer (exceptionPayload e buf) := by
  simp [exceptionReply, exceptionPayload, rxByte_eq]

theorem successReply_eq (buf : RxBuf) : successReply buf = withTrailer (successPayload buf) := by
  simp only [successReply, successPayload]
  rw [rxByte_eq buf 0 (by decide), rxByte_eq buf 2 (by decide), rxByte_eq buf 3 (by decide), rxByte_eq buf 4 (by decide),
    rxByte_eq buf 5 (by decide)]

/-- EVERYTHING that taking an exception does (R236): the five-byte exception reply. -/
theorem State.takeException_replied (e : ModbusException) (s : State) :
    Replied (exceptionReply e.code s.rxbuf) s (s.takeException e) := by
  rw [exceptionReply_eq]
  exact State.respond_replied _ _ (Nat.le_of_ble_eq_true rfl)

/-- EVERYTHING the success reply does (R171, R191 to R193): the eight-byte echo. -/
theorem State.replySuccess_replied (s : State) : Replied (successReply s.rxbuf) s s.replySuccess := by
  rw [successReply_eq]
  exact State.respond_replied _ _ (Nat.le_of_ble_eq_true rfl)

/-! ### The commit -/

/-- EVERYTHING the commit does to the bank (R170, R210). -/
theorem commitBank_written (start qty : Word) (vals : List Word) (bank : Bank) :
    BankWritten start qty vals bank (commitBank start qty vals bank) := by
  intro i
  simp only [commitBank, writeEnable, writeData, Fin.getElem_fin, Vector.getElem_ofFn, decide_eq_true_eq]

/-! ### The rows -/

/-- The checks pass exactly under R168's conditions. -/
theorem wmrCheck_none_iff (start qty : Word) (bc : Byte) (vals : List Word) :
    wmrCheck start qty bc vals = none ↔ WritesAllowed start qty bc vals := by
  unfold wmrCheck WritesAllowed
  split
  · next h => simp only [reduceCtorEq, false_iff]; rintro ⟨h1, h2, h3, h4, h5⟩; simp only [qMax] at h; omega
  split
  · next h => simp only [reduceCtorEq, false_iff]; rintro ⟨h1, h2, h3, h4, h5⟩; omega
  split
  · next h =>
    simp only [reduceCtorEq, false_iff]; rintro ⟨h1, h2, h3, h4, h5⟩; simp only [regBase, regLast] at h; omega
  split
  · next h => simp only [reduceCtorEq, false_iff]; rintro ⟨h1, h2, h3, h4, h5⟩; simp only [spillLimit] at h; omega
  split
  · next h =>
    simp only [reduceCtorEq, false_iff]; rintro ⟨h1, h2, h3, h4, h5⟩
    obtain ⟨v, hv, hlt⟩ := List.any_eq_true.mp h
    have := h5 v hv
    simp only [vMax, decide_eq_true_eq] at hlt
    omega
  · next h1 h2 h3 h4 h5 =>
    simp only [qMax, regBase, regLast, spillLimit] at h1 h3 h4
    refine iff_of_true rfl ⟨by omega, by omega, by omega, by omega, fun v hv => ?_⟩
    have := List.any_eq_false.mp (Bool.eq_false_iff.mpr h5) v hv
    simpa [vMax] using this

theorem exec_wmr_failed {start qty : Word} {bc : Byte} {vals : List Word} {e : ModbusException}
    (h : wmrCheck start qty bc vals = some e) (s : State) :
    exec (.wmr start qty bc vals) s = .next (s.takeException e) := by simp [exec, execWmr, h]

theorem exec_wmr_passed {start qty : Word} {bc : Byte} {vals : List Word} (h : WritesAllowed start qty bc vals)
    (s : State) : exec (.wmr start qty bc vals) s = .next (s.commit start qty vals).replySuccess := by
  simp [exec, execWmr, (wmrCheck_none_iff start qty bc vals).mpr h]

/-- What WMR answers: the exception of the first failing check, or the commit with the success reply. -/
theorem exec_wmr (start qty : Word) (bc : Byte) (vals : List Word) (s : State) :
    (∃ e, wmrCheck start qty bc vals = some e ∧ exec (.wmr start qty bc vals) s = .next (s.takeException e)) ∨
    (WritesAllowed start qty bc vals ∧
      exec (.wmr start qty bc vals) s = .next (s.commit start qty vals).replySuccess) := by
  cases h : wmrCheck start qty bc vals with
  | some e => exact .inl ⟨e, rfl, exec_wmr_failed h s⟩
  | none =>
    have hw := (wmrCheck_none_iff ..).mp h
    exact .inr ⟨hw, exec_wmr_passed hw s⟩

theorem exec_illegalFunction (fc : Byte) (s : State) :
    exec (.illegalFunction fc) s = .next (s.takeException .unsupportedFunction) := rfl

theorem exec_acceptBroadcast (s : State) : exec .acceptBroadcast s = .next (s.setBcast true) := rfl

theorem exec_acceptUnicast (addr : Byte) (s : State) : exec (.acceptUnicast addr) s = .next (s.setBcast false) := rfl

theorem exec_notAddressed (addr : Byte) (s : State) : exec (.notAddressed addr) s = .next s := rfl

end Sys2Proof.Machine
end

