-- ==== Sys2Proof/Laws/PerInstr.lean ====
section
/-! SUPPORT. Families of statements proved instruction by instruction (LAWS.json). -/
namespace Sys2Proof.Laws

open Sys2Proof.Machine

theorem flatMap_be16Bytes_length (vals : List Word) : (vals.flatMap be16Bytes).length = 2 * vals.length := by
  induction vals with
  | nil => rfl
  | cons v vs ih => simp [ih]; omega

theorem valueCount_le (qty : Word) : valueCount qty ≤ qMax := by
  unfold valueCount
  split <;> omega

namespace EncodeLength

/-- A well-formed row's encoding has at least its decoded byte and at most the longest row's bytes (R72). -/
def Statement (i : Instr) : Prop :=
  ∀ dev, i.wellFormed dev = true → 1 ≤ (encode i).length ∧ (encode i).length ≤ longestRow

theorem wmr (start qty : Word) (bc : Byte) (vals : List Word) : Statement (.wmr start qty bc vals) := by
  intro dev h
  have hv : vals.length = valueCount qty := by simpa [Instr.wellFormed] using h
  have := valueCount_le qty
  simp only [encode, List.length_append, flatMap_be16Bytes_length, be16Bytes_length, List.length_singleton, longestRow]
  omega

theorem illegalFunction (fc : Byte) : Statement (.illegalFunction fc) := by
  intro dev _
  simp only [encode, longestRow, List.length_singleton]
  omega

theorem acceptBroadcast : Statement .acceptBroadcast := by
  intro dev _
  simp only [encode, longestRow, List.length_singleton]
  omega

theorem acceptUnicast (addr : Byte) : Statement (.acceptUnicast addr) := by
  intro dev _
  simp only [encode, longestRow, List.length_singleton]
  omega

theorem notAddressed (addr : Byte) : Statement (.notAddressed addr) := by
  intro dev _
  simp only [encode, longestRow, List.length_singleton]
  omega

end EncodeLength

end Sys2Proof.Laws
end

