-- ==== Sys2Proof/Laws/Step.lean ====
section
/-! SUPPORT. What a step can do, said once: the inversion lemmas of `step`, `coreStep` and the frame pipeline. -/
namespace Sys2Proof.Machine

open Sys2Proof.Safety

/-! ### The samples -/

/-- `Avail()` is the length of `rxq`, saturated (R40). -/
theorem avail_toNat (t : State) : (avail t).toNat = min t.rxq.length 65535 := by
  simp only [avail, BitVec.toNat_ofNat]
  omega

/-- Elapsed time as a number (R113). -/
theorem elapsed_toNat (t : State) : (elapsed t).toNat = (2 ^ 32 + t.now.toNat - t.sampleTime.toNat) % 2 ^ 32 := by
  have h := t.sampleTime.isLt
  simp only [elapsed, BitVec.toNat_sub]
  omega

theorem grown_eq_true_iff (t : State) : grown t = true ↔ t.sampleCount.toNat < (avail t).toNat := by
  simp [grown, BitVec.ult]

theorem silent_eq_true_iff (t : State) :
    silent t = true ↔ t.cfg.t35Ms < (2 ^ 32 + t.now.toNat - t.sampleTime.toNat) % 2 ^ 32 := by
  rw [silent, decide_eq_true_iff, elapsed_toNat]

/-- A frame is ready exactly when `coreStep` processes it. -/
theorem frameReady_iff (t : State) :
    FrameReady t ↔ t.rst = false ∧ t.fsm = .wait ∧ grown t = false ∧ silent t = true := by
  unfold FrameReady
  rw [silent_eq_true_iff, ← Bool.not_eq_true (grown t), grown_eq_true_iff, Nat.not_lt]

/-! ### The core step -/

/-- EVERYTHING a core step can do: nothing, start a frame, grow, or process a complete frame. -/
theorem coreStep_cases (t : State) :
    (coreStep t = .next t ∧ ¬ FrameReady t) ∨
    (t.rst = false ∧ t.fsm = .idle ∧ avail t ≠ 0#16 ∧ coreStep t = .next (t.sample.setFsm .wait)) ∨
    (t.rst = false ∧ t.fsm = .wait ∧ grown t = true ∧ coreStep t = .next t.sample) ∨
    (FrameReady t ∧ coreStep t = processFrame (avail t).toNat t) := by
  rw [frameReady_iff]
  unfold coreStep
  cases hr : t.rst with
  | true => simp
  | false =>
    cases hf : t.fsm with
    | idle =>
      by_cases ha : avail t = 0#16
      · simp [idleStep, ha]
      · simp [idleStep, ha]
    | wait =>
      cases hg : grown t with
      | true => simp
      | false => cases hs : silent t <;> simp

/-- Without growth and within the threshold the core waits unchanged (R110, R113). -/
theorem coreStep_waits {t : State} (hr : t.rst = false) (hf : t.fsm = .wait) (hg : grown t = false)
    (hs : silent t = false) : coreStep t = .next t := by simp [coreStep, hr, hf, hg, hs]

/-- Growth samples the count and the clock (R112). -/
theorem coreStep_grows {t : State} (hr : t.rst = false) (hf : t.fsm = .wait) (hg : grown t = true) :
    coreStep t = .next t.sample := by simp [coreStep, hr, hf, hg]

/-- A complete frame is processed. -/
theorem coreStep_ready {t : State} (h : FrameReady t) : coreStep t = processFrame (avail t).toNat t := by
  obtain ⟨hr, hf, hg, hs⟩ := (frameReady_iff t).mp h
  simp [coreStep, hr, hf, hg, hs]

/-! ### The frame pipeline -/

theorem rxHead_avail (t : State) : rxHead (avail t).toNat t = frameOf t := by rw [rxHead, avail_toNat, frameOf]

theorem frameOf_length (t : State) : (frameOf t).length = (avail t).toNat := by
  rw [frameOf, avail_toNat, List.length_take]
  omega

/-- A short frame is all the transport holds. -/
theorem frameOf_eq {t : State} (h : t.rxq.length ≤ 65535) : frameOf t = t.rxq := by
  rw [frameOf, Nat.min_eq_left h, List.take_length]

theorem takeFrame_eq (t : State) :
    t.takeFrame (avail t).toNat = { t with fsm := .idle, rxq := leftOver t, bcast := false } := by
  rw [avail_toNat]
  rfl

theorem loaded_eq (t : State) : (t.takeFrame (avail t).toNat).copyFrame (rxHead (avail t).toNat t) = loaded t := by
  rw [rxHead_avail, takeFrame_eq]
  rfl

/-- An oversize frame is dropped before the copy (R117). -/
theorem processFrame_oversize {t : State} (h : 32 < (frameOf t).length) :
    processFrame (avail t).toNat t = .next { t with fsm := .idle, rxq := leftOver t, bcast := false } := by
  rw [frameOf_length] at h
  rw [processFrame, if_pos h, takeFrame_eq]

/-- Every other frame is loaded and runs through stages P4 to P9. -/
theorem processFrame_fits {t : State} (h : (frameOf t).length ≤ 32) :
    processFrame (avail t).toNat t = runFrame (loaded t) := by
  rw [frameOf_length] at h
  rw [processFrame, if_neg (by simpa using h), loaded_eq]

theorem loaded_rxLen {t : State} (h : (frameOf t).length ≤ 32) : (loaded t).rxLen.toNat = (frameOf t).length := by
  simp only [loaded, BitVec.toNat_ofNat]
  omega

/-- The integrity check of a loaded frame is the CRC of its bytes (R130). -/
theorem integrityOk_loaded {t : State} (h : (frameOf t).length ≤ 32) :
    integrityOk (loaded t) = (crc16 (frameOf t) == 0#16) := by
  rw [integrityOk, loaded_rxLen h, crc16Modbus_zero]
  have : (loaded t).rxbuf.toList.take (frameOf t).length = frameOf t := overlay_take _ _ h
  rw [this]

/-- A frame that fails the integrity check is dropped after the copy (R130). -/
theorem runFrame_integrityFailure {t : State} (h : integrityOk t = false) : runFrame t = .next t := by
  simp [runFrame, vclass, h]

/-- A frame that passes it runs its address row and, when that row accepts, its function row (R131, R132). -/
theorem runFrame_ok {t : State} (h : integrityOk t = true) :
    runFrame t = match addressInstr t with
      | .acceptBroadcast => exec (functionInstr t) (t.setBcast true)
      | .acceptUnicast _ => exec (functionInstr t) (t.setBcast false)
      | _ => .next t := by
  unfold runFrame vclass
  rw [if_pos h]
  cases hi : addressInstr t with
  | acceptBroadcast => simp [andThen, exec_acceptBroadcast, functionInstr]
  | acceptUnicast addr => simp [andThen, exec_acceptUnicast, functionInstr]
  | notAddressed addr => simp [exec_notAddressed]
  | wmr start qty bc vals =>
    have := (decodeAddress_wellFormed t.cfg.devAddr (addrField t.rxbuf)).1
    rw [show decodeAddress t.cfg.devAddr (addrField t.rxbuf) = _ from hi] at this
    simp [Instr.isAddressRow] at this
  | illegalFunction fc =>
    have := (decodeAddress_wellFormed t.cfg.devAddr (addrField t.rxbuf)).1
    rw [show decodeAddress t.cfg.devAddr (addrField t.rxbuf) = _ from hi] at this
    simp [Instr.isAddressRow] at this

/-- EVERYTHING the decoder answers for a frame, and what it answers it with. -/
theorem decodeFrame_loaded (t : State) :
    decodeFrame t.cfg.devAddr t.rxbuf (frameOf t) =
      if 32 < (frameOf t).length then .error .oversize
      else if crc16 (frameOf t) ≠ 0#16 then .error .integrityFailure
      else .ok (addressInstr (loaded t), functionInstr (loaded t)) := rfl

/-- EVERYTHING a complete frame can come to: dropped as oversize, dropped for its CRC, or run. -/
theorem frame_cases {t : State} (h : FrameReady t) :
    (32 < (frameOf t).length ∧
      coreStep t = .next { t with fsm := .idle, rxq := leftOver t, bcast := false }) ∨
    ((frameOf t).length ≤ 32 ∧ crc16 (frameOf t) ≠ 0#16 ∧ coreStep t = .next (loaded t)) ∨
    ((frameOf t).length ≤ 32 ∧ crc16 (frameOf t) = 0#16 ∧
      coreStep t = match addressInstr (loaded t) with
        | .acceptBroadcast => exec (functionInstr (loaded t)) ((loaded t).setBcast true)
        | .acceptUnicast _ => exec (functionInstr (loaded t)) ((loaded t).setBcast false)
        | _ => .next (loaded t)) := by
  rw [coreStep_ready h]
  by_cases hl : 32 < (frameOf t).length
  · exact .inl ⟨hl, processFrame_oversize hl⟩
  · have hl' : (frameOf t).length ≤ 32 := by omega
    rw [processFrame_fits hl']
    by_cases hc : crc16 (frameOf t) = 0#16
    · exact .inr (.inr ⟨hl', hc, runFrame_ok (by simp [integrityOk_loaded hl', hc])⟩)
    · exact .inr (.inl ⟨hl', hc, runFrame_integrityFailure (by simp [integrityOk_loaded hl', hc])⟩)

/-- EVERYTHING a function row can do: take an exception, or commit and reply. -/
theorem exec_functionRow {f : Instr} (hf : f.isFunctionRow = true) (s : State) :
    (∃ e, exec f s = .next (s.takeException e)) ∨
    (∃ start qty bc vals, f = .wmr start qty bc vals ∧ WritesAllowed start qty bc vals ∧
      exec f s = .next (s.commit start qty vals).replySuccess) := by
  cases f with
  | wmr start qty bc vals =>
    obtain ⟨e, -, h⟩ | ⟨hw, h⟩ := exec_wmr start qty bc vals s
    · exact .inl ⟨e, h⟩
    · exact .inr ⟨start, qty, bc, vals, rfl, hw, h⟩
  | illegalFunction fc => exact .inl ⟨_, exec_illegalFunction fc s⟩
  | acceptBroadcast => simp [Instr.isFunctionRow] at hf
  | acceptUnicast addr => simp [Instr.isFunctionRow] at hf
  | notAddressed addr => simp [Instr.isFunctionRow] at hf

/-- A complete frame's step in terms of the shared operations: a drop before or after the copy, an exception, or a commit
with its reply, the last two after the address row set `bcast`. -/
theorem frame_result {t : State} (h : FrameReady t) :
    coreStep t = .next { t with fsm := .idle, rxq := leftOver t, bcast := false } ∧ 32 < (frameOf t).length ∨
    coreStep t = .next (loaded t) ∧ (frameOf t).length ≤ 32 ∨
    (frameOf t).length ≤ 32 ∧ ∃ b,
      (∃ e, coreStep t = .next (((loaded t).setBcast b).takeException e)) ∨
      (∃ start qty bc vals, functionInstr (loaded t) = .wmr start qty bc vals ∧ WritesAllowed start qty bc vals ∧
        coreStep t = .next (((loaded t).setBcast b).commit start qty vals).replySuccess) := by
  obtain ⟨hl, h1⟩ | ⟨hl, -, h1⟩ | ⟨hl, -, h1⟩ := frame_cases h
  · exact .inl ⟨h1, hl⟩
  · exact .inr (.inl ⟨h1, hl⟩)
  · have hf := (decodeFunction_wellFormed 0 (loaded t).rxbuf).1
    cases hi : addressInstr (loaded t) with
    | acceptBroadcast =>
      rw [hi] at h1
      simp only at h1
      rw [h1]
      exact .inr (.inr ⟨hl, true, exec_functionRow hf _⟩)
    | acceptUnicast addr =>
      rw [hi] at h1
      simp only at h1
      rw [h1]
      exact .inr (.inr ⟨hl, false, exec_functionRow hf _⟩)
    | notAddressed addr => rw [hi] at h1; exact .inr (.inl ⟨h1, hl⟩)
    | wmr start qty bc vals => rw [hi] at h1; exact .inr (.inl ⟨h1, hl⟩)
    | illegalFunction fc => rw [hi] at h1; exact .inr (.inl ⟨h1, hl⟩)

/-! ### The step -/

/-- The core's turn: the step is the core step. -/
theorem step_coreTurn {s t : State} (h : coreTurn s = some t) : step s = coreStep t := by
  unfold coreTurn at h
  unfold step nextMove
  split at h <;> simp_all [applyMove]

/-- EVERYTHING a step can be: a core step, or one move of the environment. -/
theorem step_cases (s : State) :
    (∃ t, coreTurn s = some t ∧ step s = coreStep t) ∨
    (∃ bs rest, s.schedule = .receive bs :: rest ∧ step s = .next (State.receive bs { s with schedule := rest })) ∨
    (∃ d rest, s.schedule = .tick d :: rest ∧ step s = .next (State.tick d { s with schedule := rest })) ∨
    (∃ i rest, s.schedule = .displayRead i :: rest ∧ step s = .next { s with schedule := rest }) ∨
    (∃ level rest, s.schedule = .rst level :: rest ∧ step s = setRst level { s with schedule := rest }) := by
  cases hs : s.schedule with
  | nil => exact .inl ⟨s, by simp [coreTurn, hs], step_coreTurn (by simp [coreTurn, hs])⟩
  | cons m rest =>
    cases m with
    | core =>
      have h : coreTurn s = some { s with schedule := rest } := by simp [coreTurn, hs]
      exact .inl ⟨_, h, step_coreTurn h⟩
    | receive bs => exact .inr (.inl ⟨bs, rest, rfl, by simp [step, nextMove, hs, applyMove]⟩)
    | tick d => exact .inr (.inr (.inl ⟨d, rest, rfl, by simp [step, nextMove, hs, applyMove]⟩))
    | displayRead i => exact .inr (.inr (.inr (.inl ⟨i, rest, rfl, by simp [step, nextMove, hs, applyMove]⟩)))
    | rst level => exact .inr (.inr (.inr (.inr ⟨level, rest, rfl, by simp [step, nextMove, hs, applyMove]⟩)))

/-- What the core's turn changes: the schedule only. -/
theorem coreTurn_eq {s t : State} (h : coreTurn s = some t) : t = { s with schedule := t.schedule } := by
  unfold coreTurn at h
  split at h <;> simp_all
  exact h ▸ rfl

/-- EVERYTHING the reset pin can do (R260). -/
theorem setRst_cases (level : Bool) (s : State) :
    (level = true ∧ setRst level s = .next { s.coreReset with rst := true }) ∨
    (level = false ∧ s.rst = true ∧ configLegal s.cfg = true ∧
      setRst level s = .next { s.coreReset with rst := false }) ∨
    (level = false ∧ s.rst = true ∧ configLegal s.cfg = false ∧ setRst level s = .refused .illegalConfiguration) ∨
    (level = false ∧ s.rst = false ∧ setRst level s = .next s) := by
  unfold setRst
  cases level
  · cases hr : s.rst
    · simp
    · cases hc : configLegal s.cfg <;> simp
  · simp

/-! ### Runs -/

/-- A run of `n + 1` steps is a step and a run of `n`. -/
theorem run_succ (n : Nat) (s : State) :
    Host.Core.run Sys2Proof.core (n + 1) s = andThen (step s) fun t => Host.Core.run Sys2Proof.core n t := by
  have h := Host.Core.run.eq_2 Sys2Proof.core s n
  rw [show Sys2Proof.core.step s = step s from rfl] at h
  cases hs : step s with
  | next t => rw [hs] at h; exact h
  | fault r => rw [hs] at h; exact h
  | refused r => rw [hs] at h; exact h

/-- A run of `m + n` steps whose first `m` answer a next state goes on from there. -/
theorem run_add {m : Nat} (n : Nat) {s t : State} (h : Host.Core.run Sys2Proof.core m s = .next t) :
    Host.Core.run Sys2Proof.core (m + n) s = Host.Core.run Sys2Proof.core n t := by
  induction m generalizing s with
  | zero =>
    rw [Nat.zero_add]
    have : s = t := Host.Outcome.next.inj h
    rw [this]
  | succ m ih =>
    rw [run_succ] at h
    rw [Nat.add_right_comm, run_succ]
    cases hs : step s with
    | next w => rw [hs] at h; exact ih h
    | fault r => rw [hs] at h; cases h
    | refused r => rw [hs] at h; cases h

/-- What every step keeps, every run keeps. -/
theorem run_keeps {P : State → Prop} (hP : ∀ s t, P s → step s = .next t → P t) {n : Nat} {s t : State} (h0 : P s)
    (h : Host.Core.run Sys2Proof.core n s = .next t) : P t := by
  induction n generalizing s with
  | zero =>
    have : s = t := Host.Outcome.next.inj h
    exact this ▸ h0
  | succ n ih =>
    rw [run_succ] at h
    cases hs : step s with
    | next w => rw [hs] at h; exact ih (hP s w h0 hs) h
    | fault r => rw [hs] at h; cases h
    | refused r => rw [hs] at h; cases h

/-- The step on a frame laid out by `atFrame` is the core's, on a complete frame. -/
theorem atFrame_ready (frame : List Byte) (s : State) (hl : frame.length ≤ 65535) (ht : s.cfg.t35Ms + 1 < 2 ^ 32) :
    ∃ t, coreTurn (s.atFrame frame) = some t ∧ FrameReady t ∧ frameOf t = frame ∧ t.rxq = frame ∧
      t = { s.atFrame frame with schedule := s.schedule } := by
  refine ⟨{ s.atFrame frame with schedule := s.schedule }, rfl, ?_, frameOf_eq hl, rfl, rfl⟩
  refine ⟨rfl, rfl, ?_, ?_⟩
  · rw [avail_toNat]
    simp only [State.atFrame, BitVec.toNat_ofNat]
    omega
  · have h := s.now.isLt
    simp only [State.atFrame, BitVec.toNat_sub, BitVec.toNat_ofNat]
    omega

end Sys2Proof.Machine
end

