-- ==== Sys2Proof/Tests/Slice0.lean ====
section
/-! SUPPORT. Tests: every expected value is a vector of 95_test_vectors.md (named in the comment) or worked by hand from
the rule named. `witness_<Obligation>` shows a concrete input that meets the hypotheses of that obligation, at the
boundaries of its clauses. -/
namespace Sys2Proof.Tests

-- Kernel evaluations one after another: side by side each takes a thread of its own, and its stack.
set_option Elab.async false

open Sys2Proof.Machine Sys2Proof.Safety

/-! ### Helpers -/

/-- The instance of the vectors (section 0: address 0x01, 9600 baud) with `frame` counted at time 0 and 7 ms gone: the
very next core step processes it. -/
def ready (frame : List Byte) : State :=
  { State.reset with fsm := .wait, rxq := frame, sampleCount := BitVec.ofNat 16 frame.length, now := 7#32 }

/-- The next state, if there is one. -/
def nextOf (o : Host.Outcome State Fault Refusal) : Option State :=
  match o with
  | .next s => some s
  | .fault _ => none
  | .refused _ => none

/-- The bank and the wire after an outcome. -/
def bankAndWire (o : Host.Outcome State Fault Refusal) : Option (List Word × List Byte) :=
  (nextOf o).map fun s => (s.bank.toList, s.wire)

/-- An outcome with a next state that satisfies `P`. -/
theorem exists_next {o : Host.Outcome State Fault Refusal} {P : State → Prop} [DecidablePred P]
    (h : ((nextOf o).any fun u => decide (P u)) = true) : ∃ u, o = .next u ∧ P u := by
  rcases o with u | r | r
  · exact ⟨u, rfl, by simpa [nextOf] using h⟩
  · exact nomatch r
  · simp [nextOf] at h

def zeroBank : List Word := List.replicate 8 0#16

/-- V-WMR-1: `WMR 01, 0x0010, [100, 200]`. -/
def writeFrame : List Byte :=
  [0x01#8, 0x10#8, 0x00#8, 0x10#8, 0x00#8, 0x02#8, 0x04#8, 0x00#8, 0x64#8, 0x00#8, 0xC8#8, 0xB2#8, 0xEA#8]

/-- V-VAL-3: the same write, broadcast. -/
def broadcastFrame : List Byte :=
  [0x00#8, 0x10#8, 0x00#8, 0x10#8, 0x00#8, 0x02#8, 0x04#8, 0x00#8, 0x64#8, 0x00#8, 0xC8#8, 0xB6#8, 0x16#8]

/-- V-VAL-2: a valid frame for address 0x02. -/
def foreignFrame : List Byte :=
  [0x02#8, 0x10#8, 0x00#8, 0x15#8, 0x00#8, 0x01#8, 0x02#8, 0x00#8, 0x4D#8, 0x70#8, 0x50#8]

/-- V-VAL-6: the same frame with a bad CRC. -/
def foreignBadFrame : List Byte :=
  [0x02#8, 0x10#8, 0x00#8, 0x15#8, 0x00#8, 0x01#8, 0x02#8, 0x00#8, 0x4D#8, 0x70#8, 0x00#8]

/-- V-VAL-1: V-WMR-1 with its last byte corrupted. -/
def corruptFrame : List Byte :=
  [0x01#8, 0x10#8, 0x00#8, 0x10#8, 0x00#8, 0x02#8, 0x04#8, 0x00#8, 0x64#8, 0x00#8, 0xC8#8, 0xB2#8, 0x00#8]

/-- V-DSP-1: function code 0x03. -/
def readFrame : List Byte := [0x01#8, 0x03#8, 0x00#8, 0x10#8, 0x00#8, 0x01#8, 0x85#8, 0xCF#8]

/-- V-WMR-20: a frame of two payload bytes; its operands are stale or trailer bytes. -/
def shortFrame : List Byte := [0x01#8, 0x10#8, 0x01#8, 0xEC#8]

/-- V-WMR-12: `WMR 01, 0x0010, [1,2,3,4,5,6,7,8]`, the largest quantity of check 1. -/
def eightFrame : List Byte :=
  [0x01#8, 0x10#8, 0x00#8, 0x10#8, 0x00#8, 0x08#8, 0x10#8, 0x00#8, 0x01#8, 0x00#8, 0x02#8, 0x00#8, 0x03#8, 0x00#8,
   0x04#8, 0x00#8, 0x05#8, 0x00#8, 0x06#8, 0x00#8, 0x07#8, 0x00#8, 0x08#8, 0x4D#8, 0x9F#8]

/-- V-WMR-3: nine values, one more than check 1 admits. -/
def nineFrame : List Byte :=
  [0x01#8, 0x10#8, 0x00#8, 0x10#8, 0x00#8, 0x09#8, 0x12#8] ++ (List.replicate 9 [0x00#8, 0x01#8]).flatten ++
  [0xB9#8, 0x1C#8]

/-- V-FA-6: the longest frame that fits, 30 zero bytes and their CRC. -/
def longestFrame : List Byte := List.replicate 30 0x00#8 ++ [0xFE#8, 0x4F#8]

/-- V-FA-5: 33 bytes. -/
def oversizeFrame : List Byte := List.replicate 33 0x01#8

/-! ### Well-formedness: an ill-formed term for each check -/

theorem test_wmr_needs_its_values : (Instr.wmr 0x0010#16 2#16 4#8 [1#16]).wellFormed 0x01#8 = false := by decide

theorem test_wmr_beyond_qmax_carries_no_values :
    (Instr.wmr 0x0010#16 9#16 18#8 (List.replicate 9 1#16)).wellFormed 0x01#8 = false := by decide

theorem test_function_code_of_wmr_is_not_illegal : (Instr.illegalFunction 0x10#8).wellFormed 0x01#8 = false := by decide

theorem test_unicast_address_is_not_zero : (Instr.acceptUnicast 0x00#8).wellFormed 0x00#8 = false := by decide

theorem test_unicast_address_is_the_device's : (Instr.acceptUnicast 0x02#8).wellFormed 0x01#8 = false := by decide

theorem test_foreign_address_is_not_zero : (Instr.notAddressed 0x00#8).wellFormed 0x01#8 = false := by decide

theorem test_foreign_address_is_not_the_device's : (Instr.notAddressed 0x01#8).wellFormed 0x01#8 = false := by decide

theorem test_well_formed_terms :
    (Instr.wmr 0x0010#16 2#16 4#8 [1#16, 2#16]).wellFormed 0x01#8 = true ∧
    (Instr.wmr 0x0010#16 9#16 18#8 []).wellFormed 0x01#8 = true ∧
    (Instr.illegalFunction 0x90#8).wellFormed 0x01#8 = true ∧ Instr.acceptBroadcast.wellFormed 0x01#8 = true ∧
    (Instr.acceptUnicast 0x01#8).wellFormed 0x01#8 = true ∧ (Instr.notAddressed 0xFF#8).wellFormed 0x01#8 = true := by
  decide

/-! ### Decoding: words written out from the spec -/

def noBytes : RxBuf := Vector.replicate 32 0#8

/-- V-WMR-1: ACCEPT_UNICAST and WMR. -/
theorem test_decode_unicast_write :
    decodeFrame 0x01#8 noBytes writeFrame =
      .ok (.acceptUnicast 0x01#8, .wmr 0x0010#16 2#16 4#8 [100#16, 200#16]) := by decide +kernel

/-- V-VAL-3: ACCEPT_BROADCAST. -/
theorem test_decode_broadcast :
    decodeFrame 0x01#8 noBytes broadcastFrame =
      .ok (.acceptBroadcast, .wmr 0x0010#16 2#16 4#8 [100#16, 200#16]) := by decide +kernel

/-- V-VAL-2: NOT_ADDRESSED. -/
theorem test_decode_foreign :
    decodeFrame 0x01#8 noBytes foreignFrame = .ok (.notAddressed 0x02#8, .wmr 0x0015#16 1#16 2#8 [77#16]) := by
  decide +kernel

/-- V-DSP-1 and V-DSP-5 (a three-byte frame whose function code is its own CRC byte): ILLEGAL_FUNCTION. -/
theorem test_decode_illegal_function :
    decodeFrame 0x01#8 noBytes readFrame = .ok (.acceptUnicast 0x01#8, .illegalFunction 0x03#8) ∧
    decodeFrame 0x01#8 noBytes [0x01#8, 0x7E#8, 0x80#8] = .ok (.acceptUnicast 0x01#8, .illegalFunction 0x7E#8) := by
  decide +kernel

/-- V-VAL-1, V-FA-5, V-FA-6: the two rejections, by name, and the longest frame that is not rejected. -/
theorem test_decode_rejects_by_name :
    decodeFrame 0x01#8 noBytes corruptFrame = .error .integrityFailure ∧
    decodeFrame 0x01#8 noBytes oversizeFrame = .error .oversize ∧
    decodeFrame 0x01#8 noBytes longestFrame = .ok (.acceptBroadcast, .illegalFunction 0x00#8) := by decide +kernel

/-- The rows' own words: 0x10 is a function code, 0x00 and `DEV_ADDR` are addresses, other bytes function codes (log 9). -/
theorem test_table_words :
    decodeTableWord 8 0x10 = some (.wmr 0#16 0#16 0#8 []) ∧ decodeTableWord 8 0x00 = some .acceptBroadcast ∧
    decodeTableWord 8 0x01 = some (.acceptUnicast 0x01#8) ∧ decodeTableWord 8 0x03 = some (.illegalFunction 0x03#8) := by
  decide +kernel

/-- A table word that stands for WMR runs WMR as the very next step: quantity 0 gives exception 3 (the reply of V-WMR-2). -/
theorem test_table_word_runs :
    bankAndWire (step (State.reset.withFetchWord 8 0x10)) =
      some (zeroBank, [0x01#8, 0x90#8, 0x03#8, 0x0C#8, 0x01#8]) := by decide +kernel

/-! ### The instructions, one step each -/

/-- V-WMR-11: seven values, the most a request can write. -/
theorem test_wmr_writes_seven :
    bankAndWire (step (ready
      [0x01#8, 0x10#8, 0x00#8, 0x10#8, 0x00#8, 0x07#8, 0x0E#8, 0x00#8, 0x01#8, 0x00#8, 0x02#8, 0x00#8, 0x03#8, 0x00#8,
       0x04#8, 0x00#8, 0x05#8, 0x00#8, 0x06#8, 0x00#8, 0x07#8, 0x34#8, 0x60#8])) =
      some ([1#16, 2#16, 3#16, 4#16, 5#16, 6#16, 7#16, 0#16],
        [0x01#8, 0x10#8, 0x00#8, 0x10#8, 0x00#8, 0x07#8, 0x80#8, 0x0E#8]) := by decide +kernel

/-- V-WMR-21: after V-WMR-1, the two-byte request takes its operands from stale bytes and is answered with exception 2. -/
theorem test_wmr_reads_stale_bytes :
    bankAndWire (step { ready shortFrame with
      rxbuf := overlay writeFrame noBytes, bank := #v[100#16, 200#16, 0#16, 0#16, 0#16, 0#16, 0#16, 0#16] }) =
      some ([100#16, 200#16, 0#16, 0#16, 0#16, 0#16, 0#16, 0#16], [0x01#8, 0x90#8, 0x02#8, 0xCD#8, 0xC1#8]) := by
  decide +kernel

/-- V-DSP-4: 0x90 is no WMR, and bit 7 of the echoed code stays set. -/
theorem test_illegal_function_keeps_bit_seven :
    bankAndWire (step (ready [0x01#8, 0x90#8, 0x00#8, 0x4C#8])) =
      some (zeroBank, [0x01#8, 0x90#8, 0x01#8, 0x8D#8, 0xC0#8]) := by decide +kernel

/-- V-RSP-5: a broadcast with an unsupported function code builds exception 1 in `TXBUF` and sends nothing. -/
theorem test_illegal_function_broadcast_is_silent :
    (nextOf (step (ready [0x00#8, 0x03#8, 0x00#8, 0x10#8, 0x00#8, 0x01#8, 0x84#8, 0x1E#8]))).map
      (fun s => (txBytes s, s.wire)) = some ([0x00#8, 0x83#8, 0x01#8, 0xD1#8, 0x30#8], []) := by decide +kernel

/-- V-VAL-3: a broadcast write commits, builds its reply and sends nothing. -/
theorem test_broadcast_writes_silently :
    (nextOf (step (ready broadcastFrame))).map (fun s => (s.bank.toList.take 2, txBytes s, s.wire, s.bcast)) =
      some ([100#16, 200#16], [0x00#8, 0x10#8, 0x00#8, 0x10#8, 0x00#8, 0x02#8, 0x41#8, 0xDC#8], [], true) := by
  decide +kernel

/-- V-VAL-2 and V-VAL-4: a frame for another address changes nothing that can be seen. -/
theorem test_foreign_frames_are_ignored :
    bankAndWire (step (ready foreignFrame)) = some (zeroBank, []) ∧
    bankAndWire (step (ready [0xFF#8, 0xFF#8])) = some (zeroBank, []) := by decide +kernel

/-- V-BANK-1: the write enables of `WMR 01, 0x0012, [10, 20, 30]`. -/
theorem test_write_enables :
    (List.range 8).map (writeEnable 0x0012#16 3#16) = [false, false, true, true, true, false, false, false] := by decide

/-- V-CRC-4 and V-CRC-10. -/
theorem test_crc_vectors :
    crc16Modbus [0x01#8, 0x10#8] 0 2 = 0xEC01#16 ∧ crc16Modbus (List.replicate 4 0x00#8) 0 4 = 0x2400#16 := by
  decide +kernel

/-! ### Witnesses: the encodings -/

theorem witness_FrameEncodeDecodeAgree :
    (Instr.acceptUnicast 0x01#8).isAddressRow = true ∧ (Instr.acceptUnicast 0x01#8).wellFormed 0x01#8 = true ∧
    (Instr.notAddressed 0x02#8).isAddressRow = true ∧ (Instr.notAddressed 0x02#8).wellFormed 0x01#8 = true ∧
    Instr.acceptBroadcast.isAddressRow = true ∧ Instr.acceptBroadcast.wellFormed 0x01#8 = true ∧
    (Instr.wmr 0xFFFF#16 8#16 0xFF#8 (List.replicate 8 0xFFFF#16)).isFunctionRow = true ∧
    (Instr.wmr 0xFFFF#16 8#16 0xFF#8 (List.replicate 8 0xFFFF#16)).wellFormed 0x01#8 = true ∧
    (Instr.illegalFunction 0xFF#8).isFunctionRow = true ∧ (Instr.illegalFunction 0xFF#8).wellFormed 0x01#8 = true := by
  decide

/-- At quantity 8, at quantity 9 (the clause on the values does not speak), and with operands beyond a short frame. -/
theorem witness_OperandsAtFixedOffsets :
    decodeFrame 0x01#8 noBytes eightFrame = .ok (.acceptUnicast 0x01#8,
      .wmr 0x0010#16 8#16 16#8 [1#16, 2#16, 3#16, 4#16, 5#16, 6#16, 7#16, 8#16]) ∧
    decodeFrame 0x01#8 noBytes nineFrame = .ok (.acceptUnicast 0x01#8, .wmr 0x0010#16 9#16 18#8 []) ∧
    decodeFrame 0x01#8 (overlay writeFrame noBytes) shortFrame =
      .ok (.acceptUnicast 0x01#8, .wmr 0x01EC#16 2#16 4#8 [100#16, 200#16]) := by decide +kernel

theorem witness_RowsFollowTheFrameBytes :
    decodeFrame 0x01#8 noBytes [0xFF#8, 0xFF#8] = .ok (.notAddressed 0xFF#8, .illegalFunction 0xFF#8) ∧
    decodeFrame 0x01#8 noBytes broadcastFrame =
      .ok (.acceptBroadcast, .wmr 0x0010#16 2#16 4#8 [100#16, 200#16]) ∧
    decodeFrame 0x01#8 noBytes readFrame = .ok (.acceptUnicast 0x01#8, .illegalFunction 0x03#8) := by decide +kernel

theorem witness_FrameLengthLimits :
    32 < oversizeFrame.length ∧ longestFrame.length = 32 ∧ crc16Modbus [0xFF#8, 0xFF#8] 0 2 = 0x0000#16 := by
  decide +kernel

/-! ### Witnesses: the step and the environment -/

theorem witness_StepIsTheNextMove :
    coreTurn State.reset = some State.reset ∧
    ({ State.reset with schedule := [.receive [0x01#8], .core] } : State).schedule = .receive [0x01#8] :: [.core] ∧
    ({ State.reset with schedule := [.tick (2 ^ 32 + 5)] } : State).schedule = .tick (2 ^ 32 + 5) :: [] ∧
    ({ State.reset with schedule := [.displayRead 7] } : State).schedule = .displayRead 7 :: [] := by decide +kernel

/-- Nothing pending, and one byte pending. -/
theorem witness_IdleStepStartsFrame :
    (coreTurn State.reset = some State.reset ∧ State.reset.rst = false ∧ State.reset.fsm = .idle ∧
      State.reset.rxq = []) ∧
    coreTurn { State.reset with rxq := [0x01#8] } = some { State.reset with rxq := [0x01#8] } := by decide +kernel

/-- V-FA-2 at t = 6: five bytes counted, thirteen there. -/
theorem witness_GrowthRestartsSilenceTimer :
    let s := { ready writeFrame with sampleCount := 5#16, now := 6#32 }
    coreTurn s = some s ∧ s.rst = false ∧ s.fsm = .wait ∧ s.sampleCount.toNat < min s.rxq.length 65535 := by
  decide +kernel

/-- Elapsed exactly `T35_MS` = 6, and 7; and V-FA-4, 7 across the clock's wrap. -/
theorem witness_SilenceTestIsStrictAndModular :
    let six := { ready writeFrame with now := 6#32 }
    let wrapped := { ready writeFrame with sampleTime := 0xFFFFFFFE#32, now := 5#32 }
    (coreTurn six = some six ∧ six.rst = false ∧ six.fsm = .wait ∧ min six.rxq.length 65535 ≤ six.sampleCount.toNat ∧
      (2 ^ 32 + six.now.toNat - six.sampleTime.toNat) % 2 ^ 32 ≤ six.cfg.t35Ms) ∧
    six.cfg.t35Ms < (2 ^ 32 + (ready writeFrame).now.toNat - (ready writeFrame).sampleTime.toNat) % 2 ^ 32 ∧
    wrapped.cfg.t35Ms < (2 ^ 32 + wrapped.now.toNat - wrapped.sampleTime.toNat) % 2 ^ 32 := by decide +kernel

/-- Three rounds of one byte at most 6 ms apart (V-FA-8). -/
def slowRounds : List SenderRound := [⟨[0x01#8], [6]⟩, ⟨[0x01#8], [3, 3]⟩, ⟨[0x01#8, 0x01#8], []⟩]

theorem witness_EndlessFrameNeverEnds :
    let s := { ready [0x01#8] with now := 0#32, schedule := slowRounds.flatMap SenderRound.moves }
    s.rst = false ∧ s.fsm = .wait ∧ s.sampleCount.toNat ≤ s.rxq.length ∧
    s.schedule = slowRounds.flatMap SenderRound.moves ++ [] ∧
    (∀ r ∈ slowRounds, r.bytes ≠ [] ∧ r.ticks.sum ≤ s.cfg.t35Ms) ∧
    s.rxq.length + (slowRounds.flatMap SenderRound.bytes).length ≤ 65535 := by decide +kernel

theorem witness_QuietLineEndsTheFrame :
    let s := { ready writeFrame with now := 0#32, schedule := quietMoves 7 }
    s.rst = false ∧ s.fsm = .wait ∧ (avail s).toNat ≤ s.sampleCount.toNat ∧ s.sampleTime = s.now ∧
    s.cfg.t35Ms + 1 < 2 ^ 32 ∧ s.schedule = quietMoves (s.cfg.t35Ms + 1) ++ [] := by decide +kernel

/-! ### Witnesses: what becomes of a frame -/

/-- A ready state is the core's turn and a complete frame, whatever the frame here. -/
theorem ready_is_ready :
    ∀ f ∈ [writeFrame, broadcastFrame, foreignFrame, corruptFrame, readFrame, oversizeFrame, longestFrame, shortFrame],
      coreTurn (ready f) = some (ready f) ∧ FrameReady (ready f) := by
  unfold FrameReady; decide +kernel

theorem witness_StepRunsDecodedFrame :
    coreTurn (ready writeFrame) = some (ready writeFrame) ∧ FrameReady (ready writeFrame) ∧
    decodeFrame (ready writeFrame).cfg.devAddr (ready writeFrame).rxbuf (frameOf (ready writeFrame)) =
      .ok (.acceptUnicast 0x01#8, .wmr 0x0010#16 2#16 4#8 [100#16, 200#16]) := by
  unfold FrameReady; decide +kernel

/-- Every outcome of R230 is some frame's: the vectors V-FA-5, V-VAL-6, V-VAL-2, V-DSP-1, V-FA-6, V-WMR-1, V-VAL-3. -/
theorem witness_FrameOutcomeTable :
    coreTurn (ready oversizeFrame) = some (ready oversizeFrame) ∧ FrameReady (ready oversizeFrame) ∧
    coreTurn (ready writeFrame) = some (ready writeFrame) ∧ FrameReady (ready writeFrame) ∧
    frameOutcome (ready oversizeFrame) = .dropOversize ∧ frameOutcome (ready foreignBadFrame) = .dropCrc ∧
    frameOutcome (ready foreignFrame) = .dropAddress ∧ frameOutcome (ready readFrame) = .exception 1#8 false ∧
    frameOutcome (ready longestFrame) = .exception 1#8 true ∧ frameOutcome (ready writeFrame) = .success false ∧
    frameOutcome (ready broadcastFrame) = .success true := by
  unfold FrameReady; decide +kernel

/-- The four exception codes: V-WMR-3 (check 1), V-WMR-5 (check 2), V-WMR-7 (check 3), V-WMR-12 (check 4), V-WMR-15
(check 5), and V-WMR-17, where check 1 decides before check 3. -/
theorem witness_FrameOutcomeTable_exceptions :
    frameOutcome (ready nineFrame) = .exception 3#8 false ∧
    frameOutcome (ready [0x01#8, 0x10#8, 0x00#8, 0x10#8, 0x00#8, 0x01#8, 0x03#8, 0x00#8, 0x05#8, 0x35#8, 0x03#8]) =
      .exception 3#8 false ∧
    frameOutcome (ready [0x01#8, 0x10#8, 0x00#8, 0x0F#8, 0x00#8, 0x01#8, 0x02#8, 0x00#8, 0x05#8, 0x66#8, 0xAC#8]) =
      .exception 2#8 false ∧
    frameOutcome (ready eightFrame) = .exception 2#8 false ∧
    frameOutcome (ready [0x01#8, 0x10#8, 0x00#8, 0x12#8, 0x00#8, 0x01#8, 0x02#8, 0x04#8, 0x00#8, 0xA7#8, 0xE2#8]) =
      .exception 4#8 false ∧
    frameOutcome (ready [0x01#8, 0x10#8, 0x00#8, 0x00#8, 0x00#8, 0x00#8, 0x00#8, 0x09#8, 0x50#8]) =
      .exception 3#8 false := by decide +kernel

theorem witness_OversizeFrameIsDropped :
    coreTurn (ready oversizeFrame) = some (ready oversizeFrame) ∧ FrameReady (ready oversizeFrame) ∧
    32 < (ready oversizeFrame).rxq.length := by unfold FrameReady; decide +kernel

/-- A frame of exactly 32 bytes, and one that leaves a tail. -/
theorem witness_FrameCopyKeepsTail :
    (coreTurn (ready longestFrame) = some (ready longestFrame) ∧ FrameReady (ready longestFrame) ∧
      (ready longestFrame).rxq.length ≤ 32) ∧
    FrameReady (ready shortFrame) ∧ (ready shortFrame).rxq.length ≤ 32 := by unfold FrameReady; decide +kernel

/-- V-VAL-1; and V-VAL-6, where the address is another's too. -/
theorem witness_IntegrityFailureIsDropped :
    (coreTurn (ready corruptFrame) = some (ready corruptFrame) ∧ FrameReady (ready corruptFrame) ∧
      (ready corruptFrame).rxq.length ≤ 32 ∧
      crc16Modbus (ready corruptFrame).rxq 0 (ready corruptFrame).rxq.length ≠ 0x0000#16) ∧
    crc16Modbus foreignBadFrame 0 foreignBadFrame.length ≠ 0x0000#16 := by unfold FrameReady; decide +kernel

theorem witness_ForeignFrameIsDropped :
    coreTurn (ready foreignFrame) = some (ready foreignFrame) ∧ FrameReady (ready foreignFrame) ∧
    (ready foreignFrame).rxq = 0x02#8 :: foreignFrame.tail ∧ (ready foreignFrame).rxq.length ≤ 32 ∧
    crc16Modbus (ready foreignFrame).rxq 0 (ready foreignFrame).rxq.length = 0x0000#16 ∧
    0x02#8 ≠ 0x00#8 ∧ 0x02#8 ≠ (ready foreignFrame).cfg.devAddr := by unfold FrameReady; decide +kernel

/-- With the most values a request carries. -/
theorem witness_BroadcastExecutesSilently :
    State.reset.cfg.t35Ms + 1 < 2 ^ 32 ∧ State.reset.cfg.devAddr ≠ 0x00#8 ∧
    (Instr.wmr 0x0010#16 8#16 16#8 (List.replicate 8 1#16)).isFunctionRow = true ∧
    (Instr.wmr 0x0010#16 8#16 16#8 (List.replicate 8 1#16)).wellFormed State.reset.cfg.devAddr = true := by decide +kernel

/-! ### Witnesses: the rows -/

/-- A frame that sets the flag, one that clears it, and a step without a frame. -/
theorem witness_BroadcastFlagRecomputedPerFrame :
    (∃ u, step (ready broadcastFrame) = .next u ∧ u.bcast = true) ∧
    (∃ u, step { ready writeFrame with bcast := true } = .next u ∧ u.bcast = false) ∧
    ((∃ u, step { State.reset with bcast := true } = .next u ∧ u.bcast = true) ∧
      (∀ t, coreTurn { State.reset with bcast := true } = some t → ¬ FrameReady t) ∧
      ∀ level rest, ({ State.reset with bcast := true } : State).schedule ≠ .rst level :: rest) := by
  refine ⟨exists_next (by decide +kernel), exists_next (by decide +kernel), exists_next (by decide +kernel), ?_, ?_⟩
  · intro t h
    have : t = { State.reset with bcast := true } := by simpa [coreTurn, State.reset] using h.symm
    subst this
    unfold FrameReady
    decide +kernel
  · intro _ _ h
    cases h

/-- Quantities 0, 9 and 65535. -/
theorem witness_WmrQuantityCheck :
    ((0#16 : Word).toNat < 1 ∨ 8 < (0#16 : Word).toNat) ∧ ((9#16 : Word).toNat < 1 ∨ 8 < (9#16 : Word).toNat) ∧
    ((0xFFFF#16 : Word).toNat < 1 ∨ 8 < (0xFFFF#16 : Word).toNat) := by decide

/-- Quantity 1 with byte count 3, and quantity 8 with byte count 0 (V-WMR-5, V-WMR-6). -/
theorem witness_WmrByteCountCheck :
    (1 ≤ (1#16 : Word).toNat ∧ (1#16 : Word).toNat ≤ 8 ∧ (3#8 : Byte).toNat ≠ 2 * (1#16 : Word).toNat) ∧
    (8#16 : Word).toNat ≤ 8 ∧ (0#8 : Byte).toNat ≠ 2 * (8#16 : Word).toNat := by decide

/-- Starts 0x000F, 0x0018 and 0xFFFF (V-WMR-7, V-WMR-8, V-WMR-23). -/
theorem witness_WmrStartRangeCheck :
    1 ≤ (1#16 : Word).toNat ∧ (1#16 : Word).toNat ≤ 8 ∧ (2#8 : Byte).toNat = 2 * (1#16 : Word).toNat ∧
    (0x000F#16 : Word).toNat < 0x0010 ∧ 0x0017 < (0x0018#16 : Word).toNat ∧ 0x0017 < (0xFFFF#16 : Word).toNat := by
  decide

/-- Start 0x0017 with quantity 1, and start 0x0010 with quantity 8 (V-WMR-9, V-WMR-12). -/
theorem witness_WmrSpillCheck :
    (1 ≤ (1#16 : Word).toNat ∧ (2#8 : Byte).toNat = 2 * (1#16 : Word).toNat ∧ 0x0010 ≤ (0x0017#16 : Word).toNat ∧
      (0x0017#16 : Word).toNat ≤ 0x0017 ∧ 0x0017 < (0x0017#16 : Word).toNat + (1#16 : Word).toNat) ∧
    ((8#16 : Word).toNat ≤ 8 ∧ (16#8 : Byte).toNat = 2 * (8#16 : Word).toNat ∧
      0x0017 < (0x0010#16 : Word).toNat + (8#16 : Word).toNat) := by decide

/-- V-WMR-16: the second value is out of range. -/
theorem witness_WmrValueRangeCheck :
    1 ≤ (2#16 : Word).toNat ∧ (4#8 : Byte).toNat = 2 * (2#16 : Word).toNat ∧ 0x0010 ≤ (0x0013#16 : Word).toNat ∧
    (0x0013#16 : Word).toNat + (2#16 : Word).toNat ≤ 0x0017 ∧
    (∃ v ∈ ([9#16, 0xFFFF#16] : List Word), 1023 < v.toNat) ∧ ∃ v ∈ ([1024#16] : List Word), 1023 < v.toNat := by
  simp

/-- V-WMR-11 (start 0x0010, seven values) and V-WMR-10 (start 0x0016, one value), with values 0 and 1023. -/
theorem witness_WmrCommitsAndReplies :
    WritesAllowed 0x0010#16 7#16 14#8 [1#16, 2#16, 3#16, 4#16, 5#16, 0#16, 1023#16] ∧
    WritesAllowed 0x0016#16 1#16 2#8 [7#16] := by unfold WritesAllowed; simp

/-- Both clauses: V-WMR-10, and V-WMR-9, which is not granted. -/
theorem witness_WmrAllOrNothing :
    WritesAllowed 0x0016#16 1#16 2#8 [7#16] ∧ ¬ WritesAllowed 0x0017#16 1#16 2#8 [5#16] := by
  unfold WritesAllowed; simp

/-- The largest span, slot 0 to slot 7. -/
theorem witness_CommitEqualsAscendingWrites :
    0x0010 ≤ (0x0010#16 : Word).toNat ∧ (0x0010#16 : Word).toNat + (8#16 : Word).toNat ≤ 0x0018 := by decide

theorem witness_WriteEnablesOfGrantedRequest :
    WritesAllowed 0x0012#16 3#16 6#8 [10#16, 20#16, 30#16] := by unfold WritesAllowed; simp

theorem witness_RepeatedWriteIsIdempotent :
    WritesAllowed 0x0010#16 2#16 4#8 [100#16, 200#16] ∧ State.reset.bcast = false := by
  refine ⟨?_, rfl⟩
  unfold WritesAllowed
  simp

theorem witness_BuiltReplyHasZeroResidue :
    (Instr.wmr 0x0010#16 2#16 4#8 [100#16, 200#16]).isFunctionRow = true ∧
    (Instr.illegalFunction 0x03#8).isFunctionRow = true := by decide

/-- A granted write, a failing one, and an unsupported function code. -/
theorem witness_FunctionRowsFrame :
    (∃ t, exec (.wmr 0x0010#16 1#16 2#8 [5#16]) State.reset = .next t ∧ t.bank ≠ State.reset.bank ∧ t.txLen = 8#4) ∧
    (∃ t, exec (.wmr 0x0010#16 0#16 2#8 []) State.reset = .next t ∧ t.txLen = 5#4) ∧
    (∃ t, exec (.illegalFunction 0x03#8) State.reset = .next t ∧ t.txLen = 5#4) ∧
    (Instr.wmr 0x0010#16 1#16 2#8 [5#16]).isFunctionRow = true ∧ (Instr.illegalFunction 0x03#8).isFunctionRow = true :=
  ⟨exists_next (by decide +kernel), exists_next (by decide +kernel), exists_next (by decide +kernel), rfl, rfl⟩

theorem witness_AddressRowsFrame :
    (∃ t, exec .acceptBroadcast State.reset = .next t ∧ t.bcast = true) ∧
    (∃ t, exec (.notAddressed 0x02#8) { State.reset with bcast := true } = .next t ∧ t.bcast = true) ∧
    (∃ t, exec (.acceptUnicast 0x01#8) { State.reset with bcast := true } = .next t ∧ t.bcast = false) ∧
    Instr.acceptBroadcast.isAddressRow = true ∧ (Instr.notAddressed 0x02#8).isAddressRow = true ∧
    (Instr.acceptUnicast 0x01#8).isAddressRow = true :=
  ⟨exists_next (by decide +kernel), exists_next (by decide +kernel), exists_next (by decide +kernel), rfl, rfl, rfl⟩

/-! ### Witnesses: the whole machine -/

/-- A bank at the bound in every slot but the last, and a frame in progress. -/
theorem witness_StepKeepsInvariant :
    let s := { ready writeFrame with bank := #v[1023#16, 1023#16, 1023#16, 1023#16, 1023#16, 1023#16, 1023#16, 0#16] }
    Inv s ∧ ∃ u, step s = .next u ∧ u.fsm = .idle := by
  refine ⟨⟨?_, ?_, ?_, ?_, ?_⟩, exists_next (by decide +kernel)⟩
  · unfold BankInRange; decide +kernel
  all_goals decide +kernel

/-- A reset core with other configuration, transport, clock and schedule, after 5 moves that write the bank. -/
theorem witness_ReachableBankInRange :
    let s := { State.reset with
      cfg := configOf 0x01#8 1200, now := 77#32, schedule := [.receive writeFrame, .core, .tick 35, .core] }
    CoreAtReset s ∧ ∃ u, Host.Core.run Sys2Proof.core 5 s = .next u ∧ u.bank[1] = 200#16 := by
  refine ⟨by unfold CoreAtReset; decide +kernel, exists_next (by decide +kernel)⟩

/-- The commit, and a reset that clears a written bank. -/
theorem witness_OnlyCommitAndResetWriteBank :
    (∃ u, step (ready writeFrame) = .next u ∧ u.bank ≠ (ready writeFrame).bank) ∧
    ∃ u, step { State.reset with bank := Vector.replicate 8 1#16, schedule := [.rst true] } = .next u ∧
      u.bank ≠ Vector.replicate 8 1#16 :=
  ⟨exists_next (by decide +kernel), exists_next (by decide +kernel)⟩

theorem witness_AtMostOneReplyPerFrame :
    (∃ u, step (ready writeFrame) = .next u ∧ u.wire ≠ (ready writeFrame).wire) ∧
    ∃ u, step (ready readFrame) = .next u ∧ u.wire ≠ (ready readFrame).wire :=
  ⟨exists_next (by decide +kernel), exists_next (by decide +kernel)⟩

theorem witness_BroadcastIsNeverAnswered :
    coreTurn (ready broadcastFrame) = some (ready broadcastFrame) ∧ FrameReady (ready broadcastFrame) ∧
    (ready broadcastFrame).rxq = 0x00#8 :: broadcastFrame.tail := by unfold FrameReady; decide +kernel

/-- Both cases of the first clause, and the second clause's premises. -/
theorem witness_NoInputHaltsTheBlock :
    (∃ u, step (ready corruptFrame) = .next u ∧ u.fsm = .idle) ∧
    coreTurn (ready corruptFrame) = some (ready corruptFrame) ∧ FrameReady (ready corruptFrame) ∧
    configLegal (configOf 0x00#8 9600) = false ∧ configLegal (configOf 0xFF#8 9600) = true := by
  refine ⟨exists_next (by decide +kernel), ?_⟩
  unfold FrameReady
  decide +kernel

/-- Kept, started, grown and reset. -/
theorem witness_SampleRegistersFollowGrowth :
    (∃ u, step State.reset = .next u ∧ u.sampleCount = 0#16) ∧
    (∃ u, step { State.reset with rxq := [0x01#8] } = .next u ∧ u.sampleCount = 1#16) ∧
    (∃ u, step { ready writeFrame with sampleCount := 5#16 } = .next u ∧ u.sampleCount = 13#16) ∧
    ∃ u, step { ready writeFrame with schedule := [.rst true] } = .next u ∧ u.sampleCount = 0#16 :=
  ⟨exists_next (by decide +kernel), exists_next (by decide +kernel), exists_next (by decide +kernel),
    exists_next (by decide +kernel)⟩

/-- A WAIT step exactly at `T35_MS`. -/
theorem witness_OnlyFramesAndResetChangeData :
    let s := { ready writeFrame with now := 6#32 }
    (∃ u, step s = .next u ∧ u.bank = s.bank) ∧ (∀ t, coreTurn s = some t → ¬ FrameReady t) ∧
    ∀ level rest, s.schedule ≠ .rst level :: rest := by
  refine ⟨exists_next (by decide +kernel), ?_, ?_⟩
  · intro t h
    have : t = { ready writeFrame with now := 6#32 } := by simpa [coreTurn, ready, State.reset] using h.symm
    subst this
    unfold FrameReady
    decide +kernel
  · intro _ _ h
    cases h

theorem witness_OnlyFramesLeaveTheQueue :
    (∃ u, step (ready oversizeFrame) = .next u ∧ u.rxq = []) ∧
    ∃ u, step { State.reset with schedule := [.receive writeFrame] } = .next u ∧ u.rxq = writeFrame :=
  ⟨exists_next (by decide +kernel), exists_next (by decide +kernel)⟩

theorem witness_ConfigurationNeverChanges :
    (∃ u, step (ready writeFrame) = .next u ∧ u.cfg = instanceConfig) ∧
    ∀ level rest, (ready writeFrame).schedule ≠ .rst level :: rest :=
  ⟨exists_next (by decide +kernel), fun _ _ h => by cases h⟩

/-! ### Witnesses: reset and configuration -/

/-- Held in reset with a legal configuration; and a frame in progress when `rst` is asserted. -/
theorem witness_PowerOnReset :
    let held := { ready writeFrame with rst := true }
    let released := { held with schedule := [.rst false] }
    let asserted := { ready writeFrame with schedule := [.rst true] }
    (coreTurn held = some held ∧ held.rst = true) ∧
    (released.rst = true ∧ configLegal released.cfg = true ∧ released.schedule = .rst false :: []) ∧
    asserted.schedule = .rst true :: [] := by decide +kernel

theorem witness_ZeroAddressIsRefused :
    let s := { State.reset with rst := true, cfg := configOf 0x00#8 9600, schedule := [.rst false] }
    s.rst = true ∧ s.cfg.devAddr = 0x00#8 ∧ s.schedule = .rst false :: [] := by decide

/-- The slowest and the fastest rate of the table, and 1. -/
theorem witness_ThresholdFromBaudRate : 1 ≤ 1 ∧ 1 ≤ 1200 ∧ 1 ≤ 115200 := by decide

theorem witness_WorkedWriteExample : State.reset.cfg = configOf 0x01#8 9600 := by decide

end Sys2Proof.Tests
end

section
/-! The configuration and the `rst` pin are inputs of the core (10_state.md R29, R43): the core's own step never writes
them, and of the environment's moves only the pin's own writes `rst`. -/
namespace Sys2Proof.Machine

open Sys2Proof.Safety

/-! ### The two ends of a function row leave the core's inputs -/

section Inputs

variable (e : ModbusException) (s : State)

@[simp] theorem State.takeException_cfg : (s.takeException e).cfg = s.cfg := State.respond_cfg _ s
@[simp] theorem State.takeException_rst : (s.takeException e).rst = s.rst := State.respond_rst _ s
@[simp] theorem State.replySuccess_cfg : s.replySuccess.cfg = s.cfg := State.respond_cfg _ s
@[simp] theorem State.replySuccess_rst : s.replySuccess.rst = s.rst := State.respond_rst _ s

end Inputs

@[simp] theorem loaded_cfg (t : State) : (loaded t).cfg = t.cfg := rfl
@[simp] theorem loaded_rst (t : State) : (loaded t).rst = t.rst := rfl

/-! ### The core step and the moves -/

/-- A complete frame, dropped or answered, has a next state with the core's inputs as they were. -/
theorem coreStep_frame_keeps_inputs {t : State} (h : FrameReady t) :
    ∃ u, coreStep t = .next u ∧ u.cfg = t.cfg ∧ u.rst = t.rst := by
  obtain ⟨hdrop, -⟩ | ⟨hdrop, -⟩ | ⟨-, b, ⟨e, hexc⟩ | ⟨start, qty, bc, vals, -, -, hok⟩⟩ := frame_result h
  · exact ⟨_, hdrop, rfl, rfl⟩
  · exact ⟨_, hdrop, rfl, rfl⟩
  · exact ⟨_, hexc, by simp, by simp⟩
  · exact ⟨_, hok, by simp, by simp⟩

/-- Every core step has a next state with the core's inputs as they were. -/
theorem coreStep_keeps_inputs (t : State) : ∃ u, coreStep t = .next u ∧ u.cfg = t.cfg ∧ u.rst = t.rst := by
  obtain ⟨hstay, -⟩ | ⟨-, -, -, hstart⟩ | ⟨-, -, -, hgrow⟩ | ⟨hready, -⟩ := coreStep_cases t
  · exact ⟨_, hstay, rfl, rfl⟩
  · exact ⟨_, hstart, rfl, rfl⟩
  · exact ⟨_, hgrow, rfl, rfl⟩
  · exact coreStep_frame_keeps_inputs hready

theorem coreTurn_cfg {s t : State} (h : coreTurn s = some t) : t.cfg = s.cfg := by rw [coreTurn_eq h]

theorem coreTurn_rst {s t : State} (h : coreTurn s = some t) : t.rst = s.rst := by rw [coreTurn_eq h]

/-- A move of the pin that is not refused keeps the configuration. -/
theorem setRst_keeps_cfg {level : Bool} {s u : State} (h : setRst level s = .next u) : u.cfg = s.cfg := by
  obtain ⟨-, h1⟩ | ⟨-, -, -, h1⟩ | ⟨-, -, -, h1⟩ | ⟨-, -, h1⟩ := setRst_cases level s
  · cases h1.symm.trans h; rfl
  · cases h1.symm.trans h; rfl
  · cases h1.symm.trans h
  · cases h1.symm.trans h; rfl

/-- Settles O47, by the kinds of a step: the core's own step and every environment move but the pin's keep both inputs,
and the pin's move keeps the configuration. -/
theorem configurationNeverChanges : Obligations.ConfigurationNeverChanges := by
  intro s u h
  obtain ⟨t, ht, hstep⟩ | ⟨bs, rest, -, hstep⟩ | ⟨d, rest, -, hstep⟩ | ⟨i, rest, -, hstep⟩ |
    ⟨level, rest, hpin, hstep⟩ := step_cases s
  · obtain ⟨v, hv, hcfg, hrst⟩ := coreStep_keeps_inputs t
    cases (hstep.trans hv).symm.trans h
    exact ⟨hcfg.trans (coreTurn_cfg ht), fun _ => hrst.trans (coreTurn_rst ht)⟩
  · cases hstep.symm.trans h
    exact ⟨rfl, fun _ => rfl⟩
  · cases hstep.symm.trans h
    exact ⟨rfl, fun _ => rfl⟩
  · cases hstep.symm.trans h
    exact ⟨rfl, fun _ => rfl⟩
  · have hcfg := setRst_keeps_cfg (hstep.symm.trans h)
    exact ⟨hcfg, fun hne => absurd hpin (hne level rest)⟩

end Sys2Proof.Machine
end

section
/-! The bank as the block's memory (20_memory.md R61): the moves of the schedule that reach the machine, and the repeated
write. -/
namespace Sys2Proof.Machine

open Sys2Proof.Safety

/-! ### A step is the next move -/

/-- A listed move is taken from the schedule and applied (log 3). -/
theorem step_of_schedule_cons {s : State} {m : Move} {rest : List Move} (h : s.schedule = m :: rest) :
    step s = applyMove m { s with schedule := rest } := by rw [step, nextMove, h]

/-- The advance of the clock as a number, modulo `2^32` (R41). -/
theorem State.tick_eq (d : Nat) (s : State) : s.tick d = { s with now := BitVec.ofNat 32 (s.now.toNat + d) } := by
  rw [BitVec.ofNat_add, BitVec.ofNat_toNat, BitVec.setWidth_eq]
  rfl

/-- Settles O8, by the head of the schedule: each listed move is applied, and the core's turn is the core step. -/
theorem stepIsTheNextMove : Obligations.StepIsTheNextMove := by
  refine ⟨fun _ _ => step_coreTurn, fun s bs rest h => ?receive, fun s d rest h => ?tick, fun s i rest h => ?read⟩
  case receive => exact step_of_schedule_cons h
  case tick =>
    calc step s = .next (State.tick d { s with schedule := rest }) := step_of_schedule_cons h
      _ = _ := by rw [State.tick_eq]
  case read => exact step_of_schedule_cons h

/-! ### The repeated write -/

/-- Committing the same values twice leaves the bank of committing them once (R61): an enabled slot takes the same value
again, every other slot holds. -/
theorem commitBank_idempotent (start qty : Word) (vals : List Word) (bank : Bank) :
    commitBank start qty vals (commitBank start qty vals bank) = commitBank start qty vals bank := by
  ext1 i hi
  have once := commitBank_written start qty vals bank ⟨i, hi⟩
  have twice := commitBank_written start qty vals (commitBank start qty vals bank) ⟨i, hi⟩
  simp only [Fin.getElem_fin] at once twice
  rw [twice]
  split
  · next henabled => rw [once, if_pos henabled]
  · rfl

section Reply

variable (s : State)

@[simp] theorem State.replySuccess_bank : s.replySuccess.bank = s.bank := State.respond_bank _ s
@[simp] theorem State.replySuccess_rxbuf : s.replySuccess.rxbuf = s.rxbuf := State.respond_rxbuf _ s
@[simp] theorem State.replySuccess_bcast : s.replySuccess.bcast = s.bcast := State.respond_bcast _ s

end Reply

/-- Unless the request was broadcast, the success reply is appended to the wire (R171, R193). -/
theorem State.replySuccess_wire {s : State} (h : s.bcast = false) :
    s.replySuccess.wire = s.wire ++ successReply s.rxbuf := by
  obtain ⟨-, -, hwire, -⟩ := s.replySuccess_replied
  simpa [h] using hwire

@[simp] theorem successReply_length (buf : RxBuf) : (successReply buf).length = 8 := by
  rw [successReply_eq, withTrailer_length]
  rfl

/-- Settles O33: both runs of a granted write end in the commit and the success reply; the commit is idempotent, and the
reply depends on `RXBUF` alone, which the write leaves. -/
theorem repeatedWriteIsIdempotent : Obligations.RepeatedWriteIsIdempotent := by
  intro start qty bc vals s hw
  refine ⟨_, _, exec_wmr_passed hw s, exec_wmr_passed hw _, ?bank,
    fun hb => ⟨successReply s.rxbuf, successReply_length _, ?firstReply, ?bothReplies⟩⟩
  case bank => simp [commitBank_idempotent]
  case firstReply => simp [State.replySuccess_wire, hb]
  case bothReplies => simp [State.replySuccess_wire, hb]

end Sys2Proof.Machine
end

section
/-! Encoding a frame and decoding it again (30_encoding.md R71 to R78): the CRC trailer cancels the CRC (R102), and each
field stands in the request buffer where the encoder put it. -/
namespace Sys2Proof.Machine

open Sys2Proof.Laws

/-! ### The trailer cancels the CRC -/

/-- The low byte of the CRC clears bits 7:0, so the 8 rounds only shift the high byte down. -/
theorem crcByte_lowByte (c : Word) : crcByte c (c.extractLsb' 0 8) = c >>> 8 := by
  have hlow : ∀ i, i < 8 → (c ^^^ (c.extractLsb' 0 8).setWidth 16).getLsbD i = false := by
    intro i hi
    simp [hi, show i < 16 by omega]
  rw [crcByte, crcRounds_shift 8 _ hlow]
  ext i hi
  simp

/-- The high byte of the CRC, shifted down to bits 7:0, is cancelled by itself. -/
theorem crcByte_highByte (c : Word) : crcByte (c >>> 8) (c.extractLsb' 8 8) = 0#16 := by
  have hzero : c >>> 8 ^^^ (c.extractLsb' 8 8).setWidth 16 = 0#16 := by
    ext i hi
    by_cases h8 : i < 8
    · simp [h8]
    · simp [h8, show 16 ≤ 8 + i by omega]
  rw [crcByte, hzero, crcRounds_shift 8 _ (by simp)]
  rfl

/-- R102, the residue property: the CRC over a payload and its trailer is zero. -/
@[simp] theorem crc16_append_crcTrailer (p : List Byte) : crc16 (p ++ crcTrailer p) = 0#16 := by
  calc crc16 (p ++ crcTrailer p)
      = crcByte (crcByte (crc16 p) ((crc16 p).extractLsb' 0 8)) ((crc16 p).extractLsb' 8 8) := by
        simp [crc16, crcTrailer]
    _ = 0#16 := by rw [crcByte_lowByte, crcByte_highByte]

/-! ### The encoded bytes -/

/-- The bytes of an address row are one byte, which the address map gives back (R71, R78). -/
theorem encode_addressRow {dev : Byte} {a : Instr} (hrow : a.isAddressRow = true) (hwf : a.wellFormed dev = true) :
    ∃ b, encode a = [b] ∧ decodeAddress dev b = a := by
  cases a with
  | wmr _ _ _ _ => cases hrow
  | illegalFunction _ => cases hrow
  | acceptBroadcast => exact ⟨0x00#8, rfl, rfl⟩
  | acceptUnicast addr =>
    obtain ⟨hne, heq⟩ : addr ≠ 0#8 ∧ addr = dev := by simpa [Instr.wellFormed] using hwf
    exact ⟨addr, rfl, by rw [decodeAddress, if_neg hne, if_pos heq]⟩
  | notAddressed addr =>
    obtain ⟨hne, hdev⟩ : addr ≠ 0#8 ∧ addr ≠ dev := by simpa [Instr.wellFormed] using hwf
    exact ⟨addr, rfl, by rw [decodeAddress, if_neg hne, if_neg hdev]⟩

/-- The bytes of WMR_REQ from the function code on (R72). -/
theorem encode_wmr (start qty : Word) (bc : Byte) (vals : List Word) :
    encode (.wmr start qty bc vals) =
      0x10#8 :: hiByte start :: loByte start :: hiByte qty :: loByte qty :: bc :: vals.flatMap be16Bytes := rfl

/-- Value `k` stands at bytes `2k` and `2k + 1` of the values' bytes, the high byte first (R55, R72). -/
theorem flatMap_be16Bytes_getD (vals : List Word) (k : Nat) (hk : k < vals.length) :
    (vals.flatMap be16Bytes).getD (2 * k) 0#8 = hiByte vals[k] ∧
    (vals.flatMap be16Bytes).getD (2 * k + 1) 0#8 = loByte vals[k] := by
  induction vals generalizing k with
  | nil => cases hk
  | cons v vs ih =>
    cases k with
    | zero => exact ⟨rfl, rfl⟩
    | succ k => exact ih k (by simpa using hk)

/-! ### A function row read back -/

/-- The request buffer holds the bytes of `f` from offset 1 on (R71). -/
def HoldsFunctionRow (f : Instr) (buf : RxBuf) : Prop :=
  ∀ i, i < (encode f).length → rxByte buf (i + 1) = (encode f).getD i 0#8

section Wmr

variable {start qty : Word} {bc : Byte} {vals : List Word} {buf : RxBuf}
  (h : HoldsFunctionRow (.wmr start qty bc vals) buf)
include h

/-- The function code and the three fields before the values (R76). -/
theorem HoldsFunctionRow.wmr_header :
    fcField buf = 0x10#8 ∧ startField buf = start ∧ qtyField buf = qty ∧ bcField buf = bc := by
  simp only [HoldsFunctionRow, encode_wmr] at h
  refine ⟨h 0 (by simp), ?start, ?qty, h 5 (by simp)⟩
  case start => rw [startField, h 1 (by simp), h 2 (by simp)]; exact be16_hi_lo start
  case qty => rw [qtyField, h 3 (by simp), h 4 (by simp)]; exact be16_hi_lo qty

/-- The values (R76). -/
theorem HoldsFunctionRow.wmr_values : valFields buf vals.length = vals := by
  simp only [HoldsFunctionRow, encode_wmr] at h
  refine List.ext_getElem (by simp) fun k _ hk => ?_
  have hlen := flatMap_be16Bytes_length vals
  obtain ⟨hhi, hlo⟩ := flatMap_be16Bytes_getD vals k hk
  have hi : rxByte buf (7 + 2 * k) = hiByte vals[k] := by
    rw [Nat.add_comm, h (2 * k + 6) (by simp only [List.length_cons]; omega)]
    exact hhi
  have lo : rxByte buf (8 + 2 * k) = loByte vals[k] := by
    rw [Nat.add_comm, h (2 * k + 7) (by simp only [List.length_cons]; omega)]
    exact hlo
  simp [valFields, valField, hi, lo]

end Wmr

/-- The function-code map with the operand assembly gives a function row back from its bytes (R76, R77). -/
theorem HoldsFunctionRow.decodeFunction_eq {dev : Byte} {f : Instr} {buf : RxBuf} (h : HoldsFunctionRow f buf)
    (hrow : f.isFunctionRow = true) (hwf : f.wellFormed dev = true) : decodeFunction buf = f := by
  cases f with
  | acceptBroadcast => cases hrow
  | acceptUnicast _ => cases hrow
  | notAddressed _ => cases hrow
  | illegalFunction fc =>
    have hne : fc ≠ 0x10#8 := by simpa [Instr.wellFormed] using hwf
    have hfc : fcField buf = fc := h 0 (by simp [encode])
    rw [decodeFunction, hfc, if_neg hne]
  | wmr start qty bc vals =>
    have hcount : vals.length = valueCount qty := by simpa [Instr.wellFormed] using hwf
    obtain ⟨hfc, hstart, hqty, hbc⟩ := h.wmr_header
    rw [decodeFunction, if_pos hfc, hstart, hqty, hbc, ← hcount, h.wmr_values]

/-! ### The whole frame -/

/-- A byte of the frame's payload stands in the request buffer at its own offset, whatever trailer follows and whatever
was there before (R118). -/
theorem rxByte_overlay_append (p trailer : List Byte) (stale : RxBuf) {i : Nat} (hi : i < p.length)
    (hfit : p.length ≤ rxMax) : rxByte (overlay (p ++ trailer) stale) i = p.getD i 0#8 := by
  rw [rxByte_overlay _ _ _ (by omega), if_pos (by rw [List.length_append]; omega), List.getD_append _ _ _ _ hi]

/-- A row's encoding fits in the longest row (R72). -/
theorem encode_length_le {dev : Byte} {i : Instr} (hwf : i.wellFormed dev = true) :
    (encode i).length ≤ longestRow := by
  cases i with
  | wmr start qty bc vals => exact (EncodeLength.wmr start qty bc vals dev hwf).2
  | illegalFunction fc => exact (EncodeLength.illegalFunction fc dev hwf).2
  | acceptBroadcast => exact (EncodeLength.acceptBroadcast dev hwf).2
  | acceptUnicast addr => exact (EncodeLength.acceptUnicast addr dev hwf).2
  | notAddressed addr => exact (EncodeLength.notAddressed addr dev hwf).2

/-- Settles O1: the frame fits, its CRC is zero, its first byte is the address row's and the bytes after it are the
function row's. -/
theorem frameEncodeDecodeAgree : Obligations.FrameEncodeDecodeAgree := by
  intro dev stale a f ha hf hwa hwf
  obtain ⟨b, hb, haddr⟩ := encode_addressRow ha hwa
  have hpayload : encode a ++ encode f = b :: encode f := by rw [hb, List.singleton_append]
  rw [encodeFrame, hpayload]
  set buf := overlay (b :: encode f ++ crcTrailer (b :: encode f)) stale with hbuf
  have hlen : (b :: encode f).length ≤ 23 := Nat.succ_le_succ (encode_length_le hwf)
  have hfit : (b :: encode f ++ crcTrailer (b :: encode f)).length ≤ 32 := by
    rw [List.length_append, crcTrailer_length]; omega
  have hcrc : crc16 (b :: encode f ++ crcTrailer (b :: encode f)) = 0#16 := crc16_append_crcTrailer _
  have hbyte : ∀ i, i < (b :: encode f).length → rxByte buf i = (b :: encode f).getD i 0#8 := fun i hi =>
    rxByte_overlay_append _ _ stale hi (hlen.trans (by decide))
  have haddrField : addrField buf = b := hbyte 0 (Nat.succ_pos _)
  have hfunction : HoldsFunctionRow f buf := fun i hi => hbyte (i + 1) (Nat.succ_lt_succ hi)
  rw [decodeFrame, if_neg (Nat.not_lt.mpr hfit), if_neg (not_not.mpr hcrc), ← hbuf, haddrField, haddr,
    hfunction.decodeFunction_eq hf hwf]

end Sys2Proof.Machine
end

section
/-! The residue property over a buffer (40_crc16.md R102). -/
namespace Sys2Proof.Machine

open Sys2Proof.Safety

/-- R102 with `crc16_modbus`'s own arguments: the CRC over all bytes of a payload with its trailer is zero. -/
theorem crc16Modbus_withTrailer (p : List Byte) : crc16Modbus (withTrailer p) 0 (withTrailer p).length = 0#16 :=
  calc crc16Modbus (withTrailer p) 0 (withTrailer p).length
    _ = crc16 (p ++ crcTrailer p) := by rw [crc16Modbus_all, withTrailer_eq]
    _ = 0#16 := crc16_append_crcTrailer p

/-- Settles O6: `B'` is the payload with its trailer, two bytes longer, and the trailer cancels the CRC. -/
theorem crcResidueIsZero : Obligations.CrcResidueIsZero := by
  intro b
  rw [← withTrailer_length b]
  exact crc16Modbus_withTrailer b

end Sys2Proof.Machine
end

section
/-! The frame assembler (41_frame_assembler.md R110 to R115): what a step writes to the sample registers, and a sender
that never pauses. -/
namespace Sys2Proof.Machine

open Sys2Proof.Safety

/-! ### The idle step -/

/-- `Avail() = 0` says that the transport holds nothing (R40). -/
theorem avail_eq_zero_iff (t : State) : avail t = 0#16 ↔ t.rxq = [] := by
  rw [← List.length_eq_zero_iff, ← BitVec.toNat_inj, avail_toNat, BitVec.toNat_ofNat]
  omega

theorem coreStep_idle {t : State} (hr : t.rst = false) (hf : t.fsm = .idle) : coreStep t = .next (idleStep t) := by
  simp [coreStep, hr, hf]

/-- With nothing pending the idle step changes nothing (R111). -/
theorem idleStep_of_rxq_nil {t : State} (h : t.rxq = []) : idleStep t = t := if_pos ((avail_eq_zero_iff t).mpr h)

/-- With bytes pending the idle step samples and starts a frame (R111). -/
theorem idleStep_of_rxq_ne_nil {t : State} (h : t.rxq ≠ []) : idleStep t = t.sample.setFsm .wait :=
  if_neg (mt (avail_eq_zero_iff t).mp h)

/-- Settles O9: the core's turn in IDLE is the idle step, by whether the transport holds a byte. -/
theorem idleStepStartsFrame : Obligations.IdleStepStartsFrame := by
  intro s t hturn hr hf
  have hstep : step s = .next (idleStep t) := (step_coreTurn hturn).trans (coreStep_idle hr hf)
  refine ⟨fun hq => ?nothingPending, fun hq => ⟨t.sample.setFsm .wait, ?starts, avail_toNat t, rfl⟩⟩
  case nothingPending => rw [hstep, idleStep_of_rxq_nil hq]
  case starts => rw [hstep, idleStep_of_rxq_ne_nil hq]

/-! ### The sample registers -/

section Samples

variable (e : ModbusException) (s : State)

@[simp] theorem State.takeException_sampleCount : (s.takeException e).sampleCount = s.sampleCount :=
  State.respond_sampleCount _ s
@[simp] theorem State.takeException_sampleTime : (s.takeException e).sampleTime = s.sampleTime :=
  State.respond_sampleTime _ s
@[simp] theorem State.replySuccess_sampleCount : s.replySuccess.sampleCount = s.sampleCount :=
  State.respond_sampleCount _ s
@[simp] theorem State.replySuccess_sampleTime : s.replySuccess.sampleTime = s.sampleTime :=
  State.respond_sampleTime _ s

end Samples

@[simp] theorem loaded_sampleCount (t : State) : (loaded t).sampleCount = t.sampleCount := rfl
@[simp] theorem loaded_sampleTime (t : State) : (loaded t).sampleTime = t.sampleTime := rfl

/-- Processing a complete frame, dropped or answered, keeps both sample registers (R22, R23, R116). -/
theorem coreStep_frame_keeps_samples {t u : State} (h : FrameReady t) (hu : coreStep t = .next u) :
    u.sampleCount = t.sampleCount ∧ u.sampleTime = t.sampleTime := by
  obtain ⟨hdrop, -⟩ | ⟨hdrop, -⟩ | ⟨-, b, ⟨e, hexc⟩ | ⟨start, qty, bc, vals, -, -, hok⟩⟩ := frame_result h
  · cases hdrop.symm.trans hu; exact ⟨rfl, rfl⟩
  · cases hdrop.symm.trans hu; exact ⟨rfl, rfl⟩
  · cases hexc.symm.trans hu; simp
  · cases hok.symm.trans hu; simp

/-- A core step keeps both sample registers, or samples while starting a frame or seeing the count grow (R111, R112). -/
theorem coreStep_samples {t u : State} (hu : coreStep t = .next u) :
    (u.sampleCount = t.sampleCount ∧ u.sampleTime = t.sampleTime) ∨
    (u.fsm = .wait ∧ u.sampleCount = avail t ∧ u.sampleTime = t.now ∧
      (t.fsm = .idle ∧ t.rxq ≠ [] ∨ t.fsm = .wait ∧ t.sampleCount.toNat < u.sampleCount.toNat)) := by
  obtain ⟨hstay, -⟩ | ⟨-, hidle, hpending, hstart⟩ | ⟨-, hwait, hgrown, hgrow⟩ | ⟨hready, -⟩ := coreStep_cases t
  · cases hstay.symm.trans hu
    exact .inl ⟨rfl, rfl⟩
  · cases hstart.symm.trans hu
    exact .inr ⟨rfl, rfl, rfl, .inl ⟨hidle, mt (avail_eq_zero_iff t).mpr hpending⟩⟩
  · cases hgrow.symm.trans hu
    exact .inr ⟨hwait, rfl, rfl, .inr ⟨hwait, (grown_eq_true_iff t).mp hgrown⟩⟩
  · exact .inl (coreStep_frame_keeps_samples hready hu)

/-- A move of the pin clears both sample registers, or keeps both when the pin is low and stays so (R260). -/
theorem setRst_samples {level : Bool} {s u : State} (hu : setRst level s = .next u) :
    (u.sampleCount = s.sampleCount ∧ u.sampleTime = s.sampleTime) ∨ (u.sampleCount = 0#16 ∧ u.sampleTime = 0#32) := by
  obtain ⟨-, h⟩ | ⟨-, -, -, h⟩ | ⟨-, -, -, h⟩ | ⟨-, -, h⟩ := setRst_cases level s
  · cases h.symm.trans hu; exact .inr ⟨rfl, rfl⟩
  · cases h.symm.trans hu; exact .inr ⟨rfl, rfl⟩
  · cases h.symm.trans hu
  · cases h.symm.trans hu; exact .inl ⟨rfl, rfl⟩

/-- Settles O44, by the kinds of a step: only the core's own step samples, only the pin's move clears, and every other
move of the environment keeps both registers. -/
theorem sampleRegistersFollowGrowth : Obligations.SampleRegistersFollowGrowth := by
  intro s u h
  obtain ⟨t, ht, hstep⟩ | ⟨bs, rest, -, hstep⟩ | ⟨d, rest, -, hstep⟩ | ⟨i, rest, -, hstep⟩ |
    ⟨level, rest, hpin, hstep⟩ := step_cases s
  · obtain ⟨hcount, htime⟩ | ⟨hwait, hcount, htime, hwhy⟩ := coreStep_samples (hstep.symm.trans h)
    · rw [coreTurn_eq ht] at hcount htime
      exact .inl ⟨hcount, htime⟩
    · exact .inr (.inl ⟨t, ht, hwait, by rw [hcount, avail_toNat], htime, hwhy⟩)
  · cases hstep.symm.trans h; exact .inl ⟨rfl, rfl⟩
  · cases hstep.symm.trans h; exact .inl ⟨rfl, rfl⟩
  · cases hstep.symm.trans h; exact .inl ⟨rfl, rfl⟩
  · obtain hkept | ⟨hcount, htime⟩ := setRst_samples (hstep.symm.trans h)
    · exact .inl hkept
    · exact .inr (.inr ⟨level, rest, hpin, hcount, htime⟩)

/-! ### Runs along a list of moves -/

/-- The run from `s` that takes exactly the moves `ms`, with the moves `rest` still to come after them. -/
def runMoves (ms rest : List Move) (s : State) : Host.Outcome State Fault Refusal :=
  Host.Core.run Sys2Proof.core ms.length { s with schedule := ms ++ rest }

/-- A run that is as long as a first part of the schedule takes that part's moves. -/
theorem run_eq_runMoves {s : State} {ms rest : List Move} (h : s.schedule = ms ++ rest) :
    Host.Core.run Sys2Proof.core ms.length s = runMoves ms rest s := by rw [runMoves, ← h]

theorem runMoves_nil (rest : List Move) (s : State) : runMoves [] rest s = .next { s with schedule := rest } := rfl

theorem runMoves_cons {m : Move} {ms rest : List Move} {s t : State}
    (h : applyMove m { s with schedule := ms ++ rest } = .next { t with schedule := ms ++ rest }) :
    runMoves (m :: ms) rest s = runMoves ms rest t := by
  rw [runMoves, List.length_cons, run_succ, step_of_schedule_cons (List.cons_append ..), h]
  rfl

@[simp] theorem runMoves_receive (bs : List Byte) (ms rest : List Move) (s : State) :
    runMoves (.receive bs :: ms) rest s = runMoves ms rest (s.receive bs) := runMoves_cons rfl

@[simp] theorem runMoves_tick (d : Nat) (ms rest : List Move) (s : State) :
    runMoves (.tick d :: ms) rest s = runMoves ms rest (s.tick d) := runMoves_cons rfl

/-- Without growth and within the threshold the core's move changes nothing (R113). -/
theorem runMoves_core_waits {ms rest : List Move} {s : State} (hr : s.rst = false) (hf : s.fsm = .wait)
    (hg : grown s = false) (hs : silent s = false) : runMoves (.core :: ms) rest s = runMoves ms rest s :=
  runMoves_cons (coreStep_waits (t := { s with schedule := ms ++ rest }) hr hf hg hs)

/-- With growth the core's move samples the count and the clock (R112). -/
theorem runMoves_core_grows {ms rest : List Move} {s : State} (hr : s.rst = false) (hf : s.fsm = .wait)
    (hg : grown s = true) : runMoves (.core :: ms) rest s = runMoves ms rest s.sample :=
  runMoves_cons (coreStep_grows (t := { s with schedule := ms ++ rest }) hr hf hg)

/-! ### A sender that never pauses -/

theorem State.tick_zero (s : State) : s.tick 0 = s := by simp [State.tick]

theorem State.tick_tick (a b : Nat) (s : State) : (s.tick a).tick b = s.tick (a + b) := by
  simp [State.tick, BitVec.ofNat_add, BitVec.add_assoc]

/-- The elapsed time grows by at most the advance of the clock; it may wrap (R41, R113). -/
theorem elapsed_tick_le (d : Nat) (s : State) : (elapsed (s.tick d)).toNat ≤ (elapsed s).toNat + d := by
  have h : elapsed (s.tick d) = elapsed s + BitVec.ofNat 32 d := by
    simp only [elapsed, State.tick_now, State.tick_sampleTime]
    bv_omega
  rw [h, BitVec.toNat_add, BitVec.toNat_ofNat]
  omega

theorem silent_eq_false_iff (t : State) : silent t = false ↔ (elapsed t).toNat ≤ t.cfg.t35Ms := by simp [silent]

@[simp] theorem elapsed_sample (s : State) : elapsed s.sample = 0#32 := by simp [elapsed]

/-- Right after a sample the count has not grown. -/
@[simp] theorem grown_sample (s : State) : grown s.sample = false := by
  rw [← Bool.not_eq_true, grown_eq_true_iff]
  exact Nat.lt_irrefl _

/-- Advances of the clock that leave the elapsed time within `T35_MS`, with a core step after each, only move the clock
(R113). -/
theorem runMoves_ticks (ticks : List Nat) (ms rest : List Move) {s : State} (hr : s.rst = false) (hf : s.fsm = .wait)
    (hg : grown s = false) (hle : (elapsed s).toNat + ticks.sum ≤ s.cfg.t35Ms) :
    runMoves ((ticks.flatMap fun d => [.tick d, .core]) ++ ms) rest s = runMoves ms rest (s.tick ticks.sum) := by
  induction ticks generalizing s with
  | nil => simp [State.tick_zero]
  | cons d ds ih =>
    rw [List.sum_cons] at hle ⊢
    have helapsed := elapsed_tick_le d s
    have hs : silent (s.tick d) = false := (silent_eq_false_iff _).mpr (by rw [State.tick_cfg]; omega)
    simp only [List.flatMap_cons, List.cons_append, List.nil_append, runMoves_tick]
    rw [runMoves_core_waits (s := s.tick d) hr hf hg hs, ih (s := s.tick d) hr hf hg (by rw [State.tick_cfg]; omega),
      State.tick_tick]

/-- The state after one round of a sender that does not stop: the bytes are in the transport and have been sampled, and
the clock has moved on. -/
def State.afterRound (r : SenderRound) (s : State) : State := ((s.receive r.bytes).sample).tick r.ticks.sum

theorem State.afterRound_rxq (r : SenderRound) (s : State) : (s.afterRound r).rxq = s.rxq ++ r.bytes := rfl

/-- After a round no more bytes are counted than the transport holds (R40), as the next round needs. -/
theorem State.afterRound_counted (r : SenderRound) (s : State) :
    (s.afterRound r).sampleCount.toNat ≤ (s.afterRound r).rxq.length :=
  (avail_toNat (s.receive r.bytes)).trans_le (Nat.min_le_left _ _)

/-- Bytes that arrive within `Avail`'s range are growth (R40, R112). -/
theorem grown_receive {s : State} {bs : List Byte} (hcount : s.sampleCount.toNat ≤ s.rxq.length) (hne : bs ≠ [])
    (hsat : s.rxq.length + bs.length ≤ 65535) : grown (s.receive bs) = true := by
  have := List.length_pos_iff.mpr hne
  rw [grown_eq_true_iff, avail_toNat, State.receive_rxq, State.receive_sampleCount, List.length_append]
  omega

/-- One round ends in WAIT: its bytes are growth, which restarts the silence timer, and its advances of the clock stay
within the threshold (R112, R113). -/
theorem runMoves_round {r : SenderRound} (ms rest : List Move) {s : State} (hr : s.rst = false) (hf : s.fsm = .wait)
    (hcount : s.sampleCount.toNat ≤ s.rxq.length) (hne : r.bytes ≠ []) (hticks : r.ticks.sum ≤ s.cfg.t35Ms)
    (hsat : s.rxq.length + r.bytes.length ≤ 65535) :
    runMoves (r.moves ++ ms) rest s = runMoves ms rest (s.afterRound r) := by
  simp only [SenderRound.moves, List.cons_append, runMoves_receive]
  rw [runMoves_core_grows (s := s.receive r.bytes) hr hf (grown_receive hcount hne hsat)]
  exact runMoves_ticks r.ticks ms rest (s := (s.receive r.bytes).sample) hr hf (grown_sample _) (by simpa using hticks)

/-- However many rounds a sender goes on, the block is in WAIT and only the bytes pile up (R115). -/
theorem runMoves_rounds (rounds : List SenderRound) (rest : List Move) {s : State} (hr : s.rst = false)
    (hf : s.fsm = .wait) (hcount : s.sampleCount.toNat ≤ s.rxq.length)
    (hrounds : ∀ r ∈ rounds, r.bytes ≠ [] ∧ r.ticks.sum ≤ s.cfg.t35Ms)
    (hsat : s.rxq.length + (rounds.flatMap SenderRound.bytes).length ≤ 65535) :
    ∃ u, runMoves (rounds.flatMap SenderRound.moves) rest s = .next u ∧ u.fsm = .wait ∧
      u.rxq = s.rxq ++ rounds.flatMap SenderRound.bytes ∧ u.bank = s.bank ∧ u.wire = s.wire ∧ u.schedule = rest := by
  induction rounds generalizing s with
  | nil => exact ⟨_, runMoves_nil rest s, hf, (List.append_nil _).symm, rfl, rfl, rfl⟩
  | cons r rs ih =>
    obtain ⟨⟨hne, hticks⟩, hrs⟩ := List.forall_mem_cons.mp hrounds
    simp only [List.flatMap_cons, List.length_append] at hsat ⊢
    rw [runMoves_round _ rest hr hf hcount hne hticks (by omega), ← List.append_assoc]
    exact ih (s := s.afterRound r) hr hf (State.afterRound_counted r s) hrs
      (by rw [State.afterRound_rxq, List.length_append]; omega)

/-- Settles O12, by induction on the rounds: each one's bytes restart the silence timer before it runs out. -/
theorem endlessFrameNeverEnds : Obligations.EndlessFrameNeverEnds := by
  intro s rounds rest hr hf hcount hschedule hrounds hsat
  rw [run_eq_runMoves hschedule]
  exact runMoves_rounds rounds rest hr hf hcount hrounds hsat

end Sys2Proof.Machine
end

section
/-! The frame validator (42_frame_validator.md R130 to R134): the address map and the function-code map row by row, the
effect of the address rows, and what becomes of a frame by its class. -/
namespace Sys2Proof.Machine

open Sys2Proof.Safety

/-! ### A zero CRC -/

/-- The polynomial's bit 15 marks every round that shifted out a 1, so only zero comes to zero in a round (R100). -/
theorem crcRound_eq_zero_iff (c : Word) : crcRound c = 0#16 ↔ c = 0#16 := by
  refine ⟨fun h => ?_, fun h => by rw [h]; rfl⟩
  cases hout : c.getLsbD 0 with
  | true =>
    have hmark := congrArg (·.getLsbD 15) h
    simp [crcRound, hout] at hmark
  | false =>
    rw [crcRound_even c hout] at h
    have hparity : c.toNat % 2 = 0 := by simpa [BitVec.getLsbD] using hout
    have hshifted : c.toNat / 2 = 0 := by simpa [Nat.shiftRight_eq_div_pow] using congrArg BitVec.toNat h
    exact BitVec.eq_of_toNat_eq (by rw [BitVec.toNat_ofNat]; omega)

theorem crcRounds_eq_zero_iff (n : Nat) (c : Word) : crcRounds n c = 0#16 ↔ c = 0#16 := by
  induction n generalizing c with
  | zero => rfl
  | succ n ih => rw [crcRounds, ih, crcRound_eq_zero_iff]

/-- A byte brings the CRC register to zero exactly when the register holds that byte and nothing above it. -/
theorem crcByte_eq_zero_iff (c : Word) (b : Byte) : crcByte c b = 0#16 ↔ c = b.setWidth 16 := by
  rw [crcByte, crcRounds_eq_zero_iff, BitVec.xor_eq_zero_iff]

/-- No frame of fewer than two bytes passes the CRC check (R83): a single byte cannot clear the high byte of 0xFFFF. -/
theorem exists_cons_cons_of_crc16_eq_zero {bytes : List Byte} (h : crc16 bytes = 0#16) :
    ∃ addr fc more, bytes = addr :: fc :: more := by
  match bytes with
  | [] => cases h
  | [b] =>
    have hb : 0xFFFF#16 = b.setWidth 16 := (crcByte_eq_zero_iff _ b).mp h
    have := congrArg (·.getLsbD 15) hb
    simp at this
  | addr :: fc :: more => exact ⟨addr, fc, more, rfl⟩

/-! ### The decoder's rows -/

/-- What a frame that decodes is, and the rows it decodes to. -/
theorem decodeFrame_eq_ok_iff {dev : Byte} {stale : RxBuf} {bytes : List Byte} {a f : Instr} :
    decodeFrame dev stale bytes = .ok (a, f) ↔ bytes.length ≤ 32 ∧ crc16 bytes = 0#16 ∧
      decodeAddress dev (addrField (overlay bytes stale)) = a ∧ decodeFunction (overlay bytes stale) = f := by
  unfold decodeFrame
  split
  · next hlong => simp [Nat.not_le.mpr hlong]
  split
  · next hcrc => simp [hcrc]
  · next hfits hcrc => simp [Nat.not_lt.mp hfits, not_not.mp hcrc]

@[simp] theorem addrField_overlay_cons (addr : Byte) (more : List Byte) (stale : RxBuf) :
    addrField (overlay (addr :: more) stale) = addr := by
  rw [addrField, rxByte_overlay _ _ _ (by decide), if_pos (by simp)]
  rfl

@[simp] theorem fcField_overlay_cons_cons (addr fc : Byte) (more : List Byte) (stale : RxBuf) :
    fcField (overlay (addr :: fc :: more) stale) = fc := by
  rw [fcField, rxByte_overlay _ _ _ (by decide), if_pos (by simp)]
  rfl

theorem decodeAddress_broadcast (dev : Byte) : decodeAddress dev 0x00#8 = .acceptBroadcast := if_pos rfl

theorem decodeAddress_unicast {dev : Byte} (h : dev ≠ 0x00#8) : decodeAddress dev dev = .acceptUnicast dev := by
  rw [decodeAddress, if_neg h, if_pos rfl]

theorem decodeAddress_foreign {dev b : Byte} (h0 : b ≠ 0x00#8) (hdev : b ≠ dev) :
    decodeAddress dev b = .notAddressed b := by rw [decodeAddress, if_neg h0, if_neg hdev]

/-- The three cases of the address map (R78, R131), 0x00 tested first. -/
theorem decodeAddress_cases (dev b : Byte) :
    (b = 0x00#8 ∧ decodeAddress dev b = .acceptBroadcast) ∨
    (b ≠ 0x00#8 ∧ b = dev ∧ decodeAddress dev b = .acceptUnicast b) ∨
    (b ≠ 0x00#8 ∧ b ≠ dev ∧ decodeAddress dev b = .notAddressed b) := by
  by_cases h0 : b = 0x00#8
  · exact .inl ⟨h0, h0 ▸ decodeAddress_broadcast dev⟩
  · by_cases hdev : b = dev
    · exact .inr (.inl ⟨h0, hdev, hdev ▸ decodeAddress_unicast (hdev ▸ h0)⟩)
    · exact .inr (.inr ⟨h0, hdev, decodeAddress_foreign h0 hdev⟩)

theorem decodeAddress_eq_acceptBroadcast_iff (dev b : Byte) :
    decodeAddress dev b = .acceptBroadcast ↔ b = 0x00#8 := by
  obtain ⟨h0, h⟩ | ⟨h0, -, h⟩ | ⟨h0, -, h⟩ := decodeAddress_cases dev b
  · exact iff_of_true h h0
  · exact iff_of_false (h ▸ nofun) h0
  · exact iff_of_false (h ▸ nofun) h0

theorem decodeAddress_eq_acceptUnicast_iff (dev b x : Byte) :
    decodeAddress dev b = .acceptUnicast x ↔ b ≠ 0x00#8 ∧ b = dev ∧ x = b := by
  obtain ⟨h0, h⟩ | ⟨h0, hdev, h⟩ | ⟨-, hdev, h⟩ := decodeAddress_cases dev b
  · exact iff_of_false (h ▸ nofun) fun ⟨hne, _⟩ => hne h0
  · rw [h, Instr.acceptUnicast.injEq]
    exact ⟨fun hx => ⟨h0, hdev, hx.symm⟩, fun ⟨_, _, hx⟩ => hx.symm⟩
  · exact iff_of_false (h ▸ nofun) fun ⟨_, heq, _⟩ => hdev heq

theorem decodeAddress_eq_notAddressed_iff (dev b x : Byte) :
    decodeAddress dev b = .notAddressed x ↔ b ≠ 0x00#8 ∧ b ≠ dev ∧ x = b := by
  obtain ⟨h0, h⟩ | ⟨-, hdev, h⟩ | ⟨h0, hdev, h⟩ := decodeAddress_cases dev b
  · exact iff_of_false (h ▸ nofun) fun ⟨hne, _⟩ => hne h0
  · exact iff_of_false (h ▸ nofun) fun ⟨_, hne, _⟩ => hne hdev
  · rw [h, Instr.notAddressed.injEq]
    exact ⟨fun hx => ⟨h0, hdev, hx.symm⟩, fun ⟨_, _, hx⟩ => hx.symm⟩

theorem decodeFunction_eq_wmr_iff (buf : RxBuf) :
    (∃ start qty bc vals, decodeFunction buf = .wmr start qty bc vals) ↔ fcField buf = 0x10#8 := by
  unfold decodeFunction
  split
  · next h => exact iff_of_true ⟨_, _, _, _, rfl⟩ h
  · next h => exact iff_of_false (fun ⟨_, _, _, _, hw⟩ => nomatch hw) h

theorem decodeFunction_eq_illegalFunction_iff (buf : RxBuf) (x : Byte) :
    decodeFunction buf = .illegalFunction x ↔ fcField buf ≠ 0x10#8 ∧ x = fcField buf := by
  unfold decodeFunction
  split
  · next h => exact iff_of_false (fun hi => nomatch hi) fun ⟨hne, _⟩ => hne h
  · next h =>
    rw [Instr.illegalFunction.injEq]
    exact ⟨fun hx => ⟨h, hx.symm⟩, fun ⟨_, hx⟩ => hx.symm⟩

/-- Settles O4: a zero CRC needs two bytes, so the decoded bytes are the frame's own; the two maps decide the rows. -/
theorem rowsFollowTheFrameBytes : Obligations.RowsFollowTheFrameBytes := by
  intro dev stale bytes a f hdecode
  obtain ⟨-, hcrc, rfl, rfl⟩ := decodeFrame_eq_ok_iff.mp hdecode
  obtain ⟨addr, fc, more, rfl⟩ := exists_cons_cons_of_crc16_eq_zero hcrc
  refine ⟨addr, fc, more, rfl, ?broadcast, fun x => ?unicast, fun x => ?foreign, ?wmr, fun x => ?illegal⟩
  case broadcast => rw [addrField_overlay_cons, decodeAddress_eq_acceptBroadcast_iff]
  case unicast => rw [addrField_overlay_cons, decodeAddress_eq_acceptUnicast_iff]
  case foreign => rw [addrField_overlay_cons, decodeAddress_eq_notAddressed_iff]
  case wmr => rw [decodeFunction_eq_wmr_iff, fcField_overlay_cons_cons]
  case illegal => rw [decodeFunction_eq_illegalFunction_iff, fcField_overlay_cons_cons]

/-! ### The address rows -/

/-- Settles O21, by the three cases of the address map. -/
theorem addressDecodeAndEffect : Obligations.AddressDecodeAndEffect := by
  refine ⟨fun dev b s => ?decoded, exec_acceptBroadcast, exec_acceptUnicast, exec_notAddressed⟩
  obtain ⟨h0, h⟩ | ⟨h0, hdev, h⟩ | ⟨h0, hdev, h⟩ := decodeAddress_cases dev b
  · rw [h, if_pos h0]; exact exec_acceptBroadcast s
  · rw [h, if_neg h0, if_pos hdev]; exact exec_acceptUnicast b s
  · rw [h, if_neg h0, if_neg hdev]; exact exec_notAddressed b s

/-- Settles O36, by the three address rows. -/
theorem addressRowsFrame : Obligations.AddressRowsFrame := by
  intro a s t hrow hexec
  cases a with
  | wmr _ _ _ _ => cases hrow
  | illegalFunction _ => cases hrow
  | acceptBroadcast => cases (exec_acceptBroadcast s).symm.trans hexec; exact ⟨rfl, nofun⟩
  | acceptUnicast addr => cases (exec_acceptUnicast addr s).symm.trans hexec; exact ⟨rfl, nofun⟩
  | notAddressed addr => cases (exec_notAddressed addr s).symm.trans hexec; exact ⟨rfl, fun _ _ => rfl⟩

/-! ### A frame by its class -/

/-- The core's turn at a complete frame that fits: stages P1 to P3, then the validator (R116). -/
theorem step_frame_fits {s t : State} (hturn : coreTurn s = some t) (hready : FrameReady t)
    (hfits : (frameOf t).length ≤ 32) : step s = runFrame (loaded t) := by
  rw [step_coreTurn hturn, coreStep_ready hready, processFrame_fits hfits]

theorem runFrame_acceptBroadcast {t : State} (hok : integrityOk t = true) (h : addressInstr t = .acceptBroadcast) :
    runFrame t = exec (functionInstr t) (t.setBcast true) := by rw [runFrame_ok hok, h]

theorem runFrame_acceptUnicast {t : State} {addr : Byte} (hok : integrityOk t = true)
    (h : addressInstr t = .acceptUnicast addr) : runFrame t = exec (functionInstr t) (t.setBcast false) := by
  rw [runFrame_ok hok, h]

theorem runFrame_notAddressed {t : State} {addr : Byte} (hok : integrityOk t = true)
    (h : addressInstr t = .notAddressed addr) : runFrame t = .next t := by rw [runFrame_ok hok, h]

/-- A transport that holds no more than a frame can: all of it is the frame. -/
theorem frameOf_length_le {t : State} (h : t.rxq.length ≤ 32) : (frameOf t).length ≤ 32 := by
  rwa [frameOf_eq (by omega)]

/-- The integrity check of such a frame, on the transport's own bytes (R130). -/
theorem integrityOk_loaded_rxq {t : State} (h : t.rxq.length ≤ 32) :
    integrityOk (loaded t) = (crc16Modbus t.rxq 0 t.rxq.length == 0x0000#16) := by
  rw [integrityOk_loaded (frameOf_length_le h), frameOf_eq (by omega), crc16Modbus_all]

/-- The address row of such a frame follows its first byte (R131). -/
theorem addressInstr_loaded_rxq {t : State} {b : Byte} {more : List Byte} (h : t.rxq.length ≤ 32)
    (hrxq : t.rxq = b :: more) : addressInstr (loaded t) = decodeAddress t.cfg.devAddr b :=
  calc addressInstr (loaded t)
    _ = decodeAddress t.cfg.devAddr (addrField (overlay (frameOf t) t.rxbuf)) := rfl
    _ = decodeAddress t.cfg.devAddr b := by rw [frameOf_eq (by omega), hrxq, addrField_overlay_cons]

/-- Settles O18: the CRC over the loaded bytes is the frame's, and a failing one is dropped after the copy. -/
theorem integrityFailureIsDropped : Obligations.IntegrityFailureIsDropped := by
  intro s t hturn hready hlen hcrc
  have hfails : integrityOk (loaded t) = false := (integrityOk_loaded_rxq hlen).trans (beq_false_of_ne hcrc)
  rw [step_frame_fits hturn hready (frameOf_length_le hlen), runFrame_integrityFailure hfails]

/-- Settles O19: the frame passes the integrity check, and its own first byte decodes to NOT_ADDRESSED. -/
theorem foreignFrameIsDropped : Obligations.ForeignFrameIsDropped := by
  intro s t b more hturn hready hrxq hlen hcrc h0 hdev
  have hpasses : integrityOk (loaded t) = true := (integrityOk_loaded_rxq hlen).trans (beq_iff_eq.mpr hcrc)
  have hforeign : addressInstr (loaded t) = .notAddressed b :=
    (addressInstr_loaded_rxq hlen hrxq).trans (decodeAddress_foreign h0 hdev)
  rw [step_frame_fits hturn hready (frameOf_length_le hlen), runFrame_notAddressed hpasses hforeign]

/-- The loaded state of a frame that decodes passes the integrity check and holds the decoded rows. -/
theorem loaded_of_decodeFrame {t : State} {a f : Instr}
    (h : decodeFrame t.cfg.devAddr t.rxbuf (frameOf t) = .ok (a, f)) :
    (frameOf t).length ≤ 32 ∧ integrityOk (loaded t) = true ∧ addressInstr (loaded t) = a ∧
      functionInstr (loaded t) = f := by
  obtain ⟨hfits, hcrc, ha, hf⟩ := decodeFrame_eq_ok_iff.mp h
  exact ⟨hfits, by rw [integrityOk_loaded hfits, hcrc, beq_self_eq_true], ha, hf⟩

theorem addressInstr_wellFormed (t : State) :
    (addressInstr t).isAddressRow = true ∧ (addressInstr t).wellFormed t.cfg.devAddr = true :=
  decodeAddress_wellFormed _ _

theorem functionInstr_wellFormed (t : State) :
    (functionInstr t).isFunctionRow = true ∧ (functionInstr t).wellFormed t.cfg.devAddr = true :=
  decodeFunction_wellFormed _ _

/-- Settles O14, by the address row: the two accepting rows go on to the function row, NOT_ADDRESSED ends the step. -/
theorem stepRunsDecodedFrame : Obligations.StepRunsDecodedFrame := by
  intro s t a f hturn hready hdecode
  obtain ⟨hfits, hok, ha, hf⟩ := loaded_of_decodeFrame hdecode
  obtain ⟨harow, hawf⟩ := ha ▸ addressInstr_wellFormed (loaded t)
  obtain ⟨hfrow, hfwf⟩ := hf ▸ functionInstr_wellFormed (loaded t)
  refine ⟨harow, hfrow, hawf, hfwf, ?_⟩
  rw [step_frame_fits hturn hready hfits]
  cases a with
  | wmr _ _ _ _ => cases harow
  | illegalFunction _ => cases harow
  | acceptBroadcast => exact ⟨_, exec_acceptBroadcast _, by rw [runFrame_acceptBroadcast hok ha, hf]⟩
  | acceptUnicast addr => exact ⟨_, exec_acceptUnicast addr _, by rw [runFrame_acceptUnicast hok ha, hf]⟩
  | notAddressed addr => exact ⟨_, exec_notAddressed addr _, runFrame_notAddressed hok ha⟩

/-! ### Broadcast and unicast -/

@[simp] theorem State.takeException_bank (e : ModbusException) (s : State) : (s.takeException e).bank = s.bank :=
  State.respond_bank _ s

@[simp] theorem exceptionReply_length (code : Byte) (buf : RxBuf) : (exceptionReply code buf).length = 5 := by
  rw [exceptionReply, withTrailer_length]
  rfl

/-- A built reply is sent unless the request was broadcast (R193). -/
theorem wire_of_replied {reply : List Byte} {s u : State} (h : Replied reply s u) :
    u.wire = if s.bcast then s.wire else s.wire ++ reply := by
  obtain ⟨-, -, hwire, -⟩ := h
  exact hwire

/-- A function row completes with a bank that depends on the bank before alone, and with a reply, which is sent unless
the request was broadcast (R133, R193). -/
theorem exec_functionRow_bank_wire {f : Instr} (hf : f.isFunctionRow = true) (bank : Bank) :
    ∃ bank', ∀ s : State, s.bank = bank → ∃ u reply, exec f s = .next u ∧ u.bank = bank' ∧ reply ≠ [] ∧
      u.wire = if s.bcast then s.wire else s.wire ++ reply := by
  have hexception (e : ModbusException) (s : State) (hs : s.bank = bank) :
      ∃ reply, (s.takeException e).bank = bank ∧ reply ≠ [] ∧
        (s.takeException e).wire = if s.bcast then s.wire else s.wire ++ reply :=
    ⟨exceptionReply e.code s.rxbuf, by rw [State.takeException_bank, hs],
      List.ne_nil_of_length_eq_add_one (exceptionReply_length _ _), wire_of_replied (s.takeException_replied e)⟩
  cases f with
  | acceptBroadcast => cases hf
  | acceptUnicast _ => cases hf
  | notAddressed _ => cases hf
  | illegalFunction fc =>
    refine ⟨bank, fun s hs => ?_⟩
    obtain ⟨reply, h⟩ := hexception .unsupportedFunction s hs
    exact ⟨_, reply, exec_illegalFunction fc s, h⟩
  | wmr start qty bc vals =>
    cases hcheck : wmrCheck start qty bc vals with
    | some e =>
      refine ⟨bank, fun s hs => ?_⟩
      obtain ⟨reply, h⟩ := hexception e s hs
      exact ⟨_, reply, exec_wmr_failed hcheck s, h⟩
    | none =>
      have hgranted := (wmrCheck_none_iff start qty bc vals).mp hcheck
      exact ⟨commitBank start qty vals bank, fun s hs => ⟨_, successReply s.rxbuf, exec_wmr_passed hgranted s,
        by simp [hs], List.ne_nil_of_length_eq_add_one (successReply_length _),
        wire_of_replied (s := s.commit start qty vals) (State.replySuccess_replied _)⟩⟩

/-- The step on an encoded frame runs its rows from a state with the bank and the wire as they were. -/
theorem step_atFrame_encodeFrame {s : State} {a f : Instr} (ht : s.cfg.t35Ms + 1 < 2 ^ 32)
    (ha : a.isAddressRow = true) (hf : f.isFunctionRow = true) (hwa : a.wellFormed s.cfg.devAddr = true)
    (hwf : f.wellFormed s.cfg.devAddr = true) :
    ∃ t, step (s.atFrame (encodeFrame a f)) = runFrame t ∧ integrityOk t = true ∧ addressInstr t = a ∧
      functionInstr t = f ∧ t.bank = s.bank ∧ t.wire = s.wire := by
  have hdecode := frameEncodeDecodeAgree s.cfg.devAddr s.rxbuf a f ha hf hwa hwf
  obtain ⟨hlen, -⟩ := decodeFrame_eq_ok_iff.mp hdecode
  obtain ⟨t, hturn, hready, hframe, -, rfl⟩ := atFrame_ready (encodeFrame a f) s (by omega) ht
  obtain ⟨hfits, hok, haddr, hfun⟩ := loaded_of_decodeFrame ((congrArg _ hframe).trans hdecode)
  exact ⟨_, step_frame_fits hturn hready hfits, hok, haddr, hfun, rfl, rfl⟩

/-- Settles O20: both address rows hand the same function row the same bank; only the flag they set differs, and it
decides whether the reply is sent. -/
theorem broadcastExecutesSilently : Obligations.BroadcastExecutesSilently := by
  intro s f ht hdev hrow hwf
  have hwu : (Instr.acceptUnicast s.cfg.devAddr).wellFormed s.cfg.devAddr = true := by
    simpa [Instr.wellFormed] using hdev
  obtain ⟨t, hstep, hok, haddr, hfun, hbank, hwire⟩ :=
    step_atFrame_encodeFrame (a := .acceptBroadcast) ht rfl hrow rfl hwf
  obtain ⟨t', hstep', hok', haddr', hfun', hbank', hwire'⟩ := step_atFrame_encodeFrame ht rfl hrow hwu hwf
  rw [runFrame_acceptBroadcast hok haddr, hfun] at hstep
  rw [runFrame_acceptUnicast hok' haddr', hfun'] at hstep'
  obtain ⟨bank', hexec⟩ := exec_functionRow_bank_wire hrow s.bank
  obtain ⟨u, _, hu, hubank, -, huwire⟩ := hexec (t.setBcast true) hbank
  obtain ⟨v, reply, hv, hvbank, hreply, hvwire⟩ := hexec (t'.setBcast false) hbank'
  exact ⟨u, v, hstep.trans hu, hstep'.trans hv, hubank.trans hvbank.symm, huwire.trans hwire, reply, hreply,
    hvwire.trans (by simp [hwire'])⟩

end Sys2Proof.Machine
end

section
/-! The dispatcher (43_dispatcher.md R146): a function code that the block does not serve. -/
namespace Sys2Proof.Machine

open Sys2Proof.Safety

/-- Settles O23: the row takes the unsupported-function exception, whose code is 1 whatever the function code. -/
theorem illegalFunctionRepliesOne : Obligations.IllegalFunctionRepliesOne := by
  intro fc s
  have hreplied : Replied (exceptionReply 1#8 s.rxbuf) s (s.takeException .unsupportedFunction) :=
    s.takeException_replied .unsupportedFunction
  exact ⟨_, exec_illegalFunction fc s, hreplied⟩

end Sys2Proof.Machine
end

section
/-! The Write-Multiple-Registers handler (44_write_multiple_registers.md R160 to R172): the reply of each failing check,
the granted request, the order of the writes, and what the function rows leave unchanged. -/
namespace Sys2Proof.Machine

open Sys2Proof.Safety

/-! ### The first failing check -/

section Checks

variable {start qty : Word} {bc : Byte} {vals : List Word}

/-- Check 1 (R162). -/
theorem wmrCheck_badQuantity (hqty : qty.toNat < 1 ∨ 8 < qty.toNat) :
    wmrCheck start qty bc vals = some .illegalDataValue := if_pos hqty

/-- Check 2 (R163). -/
theorem wmrCheck_badByteCount (hqty : ¬ (qty.toNat < 1 ∨ 8 < qty.toNat)) (hbc : bc.toNat ≠ 2 * qty.toNat) :
    wmrCheck start qty bc vals = some .illegalDataValue := by
  rw [wmrCheck, if_neg hqty, if_pos hbc]

/-- Check 3 (R164). -/
theorem wmrCheck_badStart (hqty : ¬ (qty.toNat < 1 ∨ 8 < qty.toNat)) (hbc : bc.toNat = 2 * qty.toNat)
    (hstart : start.toNat < 0x0010 ∨ 0x0017 < start.toNat) :
    wmrCheck start qty bc vals = some .illegalDataAddress := by
  rw [wmrCheck, if_neg hqty, if_neg (not_not_intro hbc), if_pos hstart]

/-- Check 4 (R165). -/
theorem wmrCheck_spills (hqty : ¬ (qty.toNat < 1 ∨ 8 < qty.toNat)) (hbc : bc.toNat = 2 * qty.toNat)
    (hstart : ¬ (start.toNat < 0x0010 ∨ 0x0017 < start.toNat)) (hspill : 0x0017 < start.toNat + qty.toNat) :
    wmrCheck start qty bc vals = some .illegalDataAddress := by
  rw [wmrCheck, if_neg hqty, if_neg (not_not_intro hbc), if_neg hstart, if_pos hspill]

/-- Check 5 (R166). -/
theorem wmrCheck_badValue (hqty : ¬ (qty.toNat < 1 ∨ 8 < qty.toNat)) (hbc : bc.toNat = 2 * qty.toNat)
    (hstart : ¬ (start.toNat < 0x0010 ∨ 0x0017 < start.toNat)) (hspill : ¬ 0x0017 < start.toNat + qty.toNat)
    (hvals : ∃ v ∈ vals, 1023 < v.toNat) : wmrCheck start qty bc vals = some .valueOutOfRange := by
  have hany : vals.any (fun v => vMax < v.toNat) = true := by simpa using hvals
  rw [wmrCheck, if_neg hqty, if_neg (not_not_intro hbc), if_neg hstart, if_neg hspill, if_pos hany]

/-- A request that a check fails completes with that check's exception reply, and nothing else changes (R167, R236). -/
theorem exec_wmr_failed_replied {e : ModbusException} (h : wmrCheck start qty bc vals = some e) (s : State) :
    ∃ t, exec (.wmr start qty bc vals) s = .next t ∧ Replied (exceptionReply e.code s.rxbuf) s t :=
  ⟨_, exec_wmr_failed h s, s.takeException_replied e⟩

end Checks

/-- Settles O24, by check 1. -/
theorem wmrQuantityCheck : Obligations.WmrQuantityCheck := by
  intro start qty bc vals s hqty
  exact exec_wmr_failed_replied (wmrCheck_badQuantity hqty) s

/-- Settles O25, by check 2. -/
theorem wmrByteCountCheck : Obligations.WmrByteCountCheck := by
  intro start qty bc vals s hlow hhigh hbc
  exact exec_wmr_failed_replied (wmrCheck_badByteCount (by omega) hbc) s

/-- Settles O26, by check 3. -/
theorem wmrStartRangeCheck : Obligations.WmrStartRangeCheck := by
  intro start qty bc vals s hlow hhigh hbc hstart
  exact exec_wmr_failed_replied (wmrCheck_badStart (by omega) hbc hstart) s

/-- Settles O27, by check 4. -/
theorem wmrSpillCheck : Obligations.WmrSpillCheck := by
  intro start qty bc vals s hlow hhigh hbc hstart hlast hspill
  exact exec_wmr_failed_replied (wmrCheck_spills (by omega) hbc (by omega) hspill) s

/-- Settles O28, by check 5. Its hypotheses bound the quantity by 7, so check 1 passes. -/
theorem wmrValueRangeCheck : Obligations.WmrValueRangeCheck := by
  intro start qty bc vals s hlow hbc hstart hspill hvals
  exact exec_wmr_failed_replied (wmrCheck_badValue (by omega) hbc (by omega) (by omega) hvals) s

/-! ### The granted request -/

/-- The commit and the success reply change the bank as the commit says, and otherwise reply (R170 to R172). -/
theorem State.commit_replySuccess_replied (start qty : Word) (vals : List Word) (s : State) :
    Replied (successReply s.rxbuf) { s with bank := (s.commit start qty vals).replySuccess.bank }
      (s.commit start qty vals).replySuccess := by
  rw [State.replySuccess_bank]
  exact (s.commit start qty vals).replySuccess_replied

/-- Settles O29: a granted request is the commit, which writes the addressed slots, and the success reply, which leaves
the bank. -/
theorem wmrCommitsAndReplies : Obligations.WmrCommitsAndReplies := by
  intro start qty bc vals s hw
  refine ⟨_, exec_wmr_passed hw s, ?bank, s.commit_replySuccess_replied start qty vals⟩
  case bank =>
    rw [State.replySuccess_bank]
    exact commitBank_written start qty vals s.bank

/-! ### The order of the writes -/

/-- Slot `i` after `n` writes in ascending order from slot `base` on: the value written to it, or what it held. -/
theorem getElem_foldl_setIfInBounds (base n : Nat) (vals : List Word) (bank : Bank) (i : Nat) (hi : i < nreg) :
    ((List.range n).foldl (fun b k => b.setIfInBounds (base + k) (vals.getD k 0#16)) bank)[i] =
      if base ≤ i ∧ i < base + n then vals.getD (i - base) 0#16 else bank[i] := by
  induction n with
  | zero => rw [if_neg (by omega)]; rfl
  | succ n ih =>
    rw [List.range_succ, List.foldl_append, List.foldl_cons, List.foldl_nil, Vector.getElem_setIfInBounds hi]
    by_cases hlast : base + n = i
    · subst hlast
      rw [if_pos rfl, if_pos (by omega), Nat.add_sub_cancel_left]
    · rw [if_neg hlast, ih]
      exact if_congr (by omega) rfl rfl

/-- Settles O31, slot by slot: after either, a slot that an address names holds the value at its distance from the start,
and every other slot its old value. -/
theorem commitEqualsAscendingWrites : Obligations.CommitEqualsAscendingWrites := by
  intro start qty vals bank hstart hend
  ext1 i hi
  have hcommit := commitBank_written start qty vals bank ⟨i, hi⟩
  simp only [Fin.getElem_fin] at hcommit
  rw [getElem_foldl_setIfInBounds _ _ _ _ i hi, hcommit,
    show i - (start.toNat - 0x0010) = 0x0010 + i - start.toNat by omega]
  exact if_congr (by omega) rfl rfl

/-! ### The frame of the function rows -/

/-- Beyond the reply `TXBUF` keeps its bytes (R190). -/
theorem txbuf_getElem_of_replied {reply : List Byte} {s t : State} (h : Replied reply s t) (i : Fin txMax)
    (hi : t.txLen.toNat ≤ i.val) : t.txbuf[i] = s.txbuf[i] := by
  obtain ⟨htx, hlen, -, -⟩ := h
  rw [hlen] at hi
  have hbyte : t.txbuf.toList[i.val]? = s.txbuf.toList[i.val]? := by
    rw [htx, List.getElem?_append_right hi, List.getElem?_drop, Nat.add_sub_cancel' hi]
  simpa using hbyte

/-- The wire only grows, and not at all when the request was broadcast (R193). -/
theorem wire_grows_of_replied {reply : List Byte} {s t : State} (h : Replied reply s t) :
    ∃ sent, t.wire = s.wire ++ sent ∧ (s.bcast = true → sent = []) := by
  refine ⟨if s.bcast then [] else reply, ?_, fun hb => if_pos hb⟩
  rw [wire_of_replied h]
  split
  · exact (List.append_nil _).symm
  · rfl

/-- A function row, whatever it answers, writes the bank and replies; an exception leaves the bank. -/
theorem exec_functionRow_replied {f : Instr} {s t : State} (hf : f.isFunctionRow = true) (h : exec f s = .next t) :
    (∃ reply, Replied reply { s with bank := t.bank } t) ∧ ∀ fc, f = .illegalFunction fc → t.bank = s.bank := by
  obtain ⟨e, hexc⟩ | ⟨start, qty, bc, vals, rfl, -, hok⟩ := exec_functionRow hf s
  · cases hexc.symm.trans h
    refine ⟨⟨exceptionReply e.code s.rxbuf, ?_⟩, fun _ _ => State.takeException_bank e s⟩
    rw [State.takeException_bank]
    exact s.takeException_replied e
  · cases hok.symm.trans h
    exact ⟨⟨_, s.commit_replySuccess_replied start qty vals⟩, fun _ hill => by cases hill⟩

/-- Settles O35: a function row writes the bank and replies, and the reply leaves everything but `TXBUF`'s first bytes,
`tx_len` and `wire`. -/
theorem functionRowsFrame : Obligations.FunctionRowsFrame := by
  intro f s t hf h
  obtain ⟨⟨reply, hreplied⟩, hbank⟩ := exec_functionRow_replied hf h
  have ⟨_, _, _, hframe⟩ := hreplied
  have htail := txbuf_getElem_of_replied hreplied
  have hwire := wire_grows_of_replied hreplied
  exact ⟨hframe, hbank, htail, hwire⟩

end Sys2Proof.Machine
end

section
/-! The response builder (45_response_builder.md R190 to R193) at the end of a frame: the CRC of a built reply, the
silence of a broadcast, and the outcome of every complete frame by the priority list (60_exceptions.md R230, R235). -/
namespace Sys2Proof.Machine

open Sys2Proof.Safety

/-! ### The CRC of a built reply -/

/-- A reply that ends in its CRC trailer leaves a zero residue over the first `tx_len` bytes of `TXBUF` (R192, R102). -/
theorem crc16Modbus_txbuf_of_replied {p : List Byte} {s t : State} (h : Replied (withTrailer p) s t) :
    crc16Modbus t.txbuf.toList 0 t.txLen.toNat = 0x0000#16 := by
  obtain ⟨htx, hlen, -, -⟩ := h
  calc crc16Modbus t.txbuf.toList 0 t.txLen.toNat
    _ = crc16 (withTrailer p) := by rw [crc16Modbus_zero, htx, hlen, List.take_left]
    _ = 0x0000#16 := by rw [← crc16Modbus_all, crc16Modbus_withTrailer]

/-- Settles O34: a function row ends in the exception reply or in the success reply, each a payload with its trailer. -/
theorem builtReplyHasZeroResidue : Obligations.BuiltReplyHasZeroResidue := by
  intro f s hf
  obtain ⟨e, hexc⟩ | ⟨start, qty, bc, vals, -, -, hok⟩ := exec_functionRow hf s
  · exact ⟨_, hexc, crc16Modbus_txbuf_of_replied (s.takeException_replied e)⟩
  · exact ⟨_, hok, crc16Modbus_txbuf_of_replied (s.commit start qty vals).replySuccess_replied⟩

/-! ### The silence of a broadcast -/

/-- A frame that fits is all that the transport holds. -/
theorem rxq_length_le_of_frameOf_length_le {t : State} (h : (frameOf t).length ≤ 32) : t.rxq.length ≤ 32 := by
  rw [frameOf_length, avail_toNat] at h
  omega

/-- Settles O42: an oversize or corrupt frame is dropped; any other decodes to ACCEPT_BROADCAST, which closes the
transmit gate before the function row replies. -/
theorem broadcastIsNeverAnswered : Obligations.BroadcastIsNeverAnswered := by
  intro s t more hturn hready hrxq
  rw [step_coreTurn hturn]
  obtain ⟨-, hdrop⟩ | ⟨-, -, hdrop⟩ | ⟨hfits, -, hrun⟩ := frame_cases hready
  · exact ⟨_, hdrop, rfl⟩
  · exact ⟨_, hdrop, rfl⟩
  · have haddr : addressInstr (loaded t) = .acceptBroadcast :=
      (addressInstr_loaded_rxq (rxq_length_le_of_frameOf_length_le hfits) hrxq).trans (decodeAddress_broadcast _)
    rw [haddr] at hrun
    obtain ⟨_, hexec⟩ := exec_functionRow_bank_wire (functionInstr_wellFormed (loaded t)).1 t.bank
    obtain ⟨u, reply, hu, -, -, hwire⟩ := hexec ((loaded t).setBcast true) rfl
    exact ⟨u, hrun.trans hu, hwire⟩

/-! ### The fields of the request buffer as the priority list reads them -/

section Fields

variable (buf : RxBuf)

theorem addrField_eq : addrField buf = buf[0] := rxByte_eq buf 0 (by decide)

theorem fcField_eq : fcField buf = buf[1] := rxByte_eq buf 1 (by decide)

theorem bcField_eq : bcField buf = buf[6] := rxByte_eq buf 6 (by decide)

theorem startField_toNat : (startField buf).toNat = buf[2].toNat * 256 + buf[3].toNat := by
  rw [startField, be16_toNat, rxByte_eq buf 2 (by decide), rxByte_eq buf 3 (by decide)]

theorem qtyField_toNat : (qtyField buf).toNat = buf[4].toNat * 256 + buf[5].toNat := by
  rw [qtyField, be16_toNat, rxByte_eq buf 4 (by decide), rxByte_eq buf 5 (by decide)]

theorem valField_toNat (k : Nat) :
    (valField buf k).toNat = (rxByte buf (7 + 2 * k)).toNat * 256 + (rxByte buf (8 + 2 * k)).toNat := be16_toNat _ _

end Fields

/-- Past check 1 the request's values are the `qty` ones it names (R76, R162). -/
theorem decodeFunction_wmr {buf : RxBuf} (hfc : fcField buf = 0x10#8) (hqty : (qtyField buf).toNat ≤ 8) :
    decodeFunction buf =
      .wmr (startField buf) (qtyField buf) (bcField buf) (valFields buf (qtyField buf).toNat) := by
  rw [decodeFunction, if_pos hfc, valueCount, if_pos hqty]

/-! ### The outcome of a complete frame -/

theorem frameOutcome_oversize {t : State} (h : 32 < (frameOf t).length) : frameOutcome t = .dropOversize := if_pos h

theorem frameOutcome_corrupt {t : State} (hfits : (frameOf t).length ≤ 32) (hcrc : crc16 (frameOf t) ≠ 0#16) :
    frameOutcome t = .dropCrc := by
  rw [← crc16Modbus_all] at hcrc
  simp only [frameOutcome]
  rw [if_neg (Nat.not_lt.mpr hfits), if_pos hcrc]

theorem frameOutcome_foreign {t : State} (hfits : (frameOf t).length ≤ 32) (hcrc : crc16 (frameOf t) = 0#16)
    (h0 : addrField (requestBuf t) ≠ 0x00#8) (hdev : addrField (requestBuf t) ≠ t.cfg.devAddr) :
    frameOutcome t = .dropAddress := by
  rw [← crc16Modbus_all] at hcrc
  rw [addrField_eq] at h0 hdev
  simp only [frameOutcome]
  rw [if_neg (Nat.not_lt.mpr hfits), if_neg (not_not_intro hcrc), if_pos ⟨h0, hdev⟩]

/-- The rest of the priority list, for a frame that passed the three drops: the function code and the handler's five
checks decide between an exception, which the function row takes, and the success, which it commits and replies. -/
theorem frameOutcome_addressed {t : State} (hfits : (frameOf t).length ≤ 32) (hcrc : crc16 (frameOf t) = 0#16)
    (haddr : addrField (requestBuf t) = 0x00#8 ∨ addrField (requestBuf t) = t.cfg.devAddr) :
    (∃ e : ModbusException, frameOutcome t = .exception e.code (addrField (requestBuf t) == 0x00#8) ∧
      ∀ s, exec (functionInstr (loaded t)) s = .next (s.takeException e)) ∨
    (frameOutcome t = .success (addrField (requestBuf t) == 0x00#8) ∧
      ∀ s, exec (functionInstr (loaded t)) s = .next (s.commit (startField (requestBuf t)) (qtyField (requestBuf t))
        (valFields (requestBuf t) (qtyField (requestBuf t)).toNat)).replySuccess) := by
  rw [← crc16Modbus_all] at hcrc
  have hhere : ¬ (addrField (requestBuf t) ≠ 0x00#8 ∧ addrField (requestBuf t) ≠ t.cfg.devAddr) :=
    or_iff_not_and_not.mp haddr
  rw [show functionInstr (loaded t) = decodeFunction (requestBuf t) from rfl]
  simp only [frameOutcome, ← addrField_eq, ← fcField_eq, ← bcField_eq, ← startField_toNat, ← qtyField_toNat,
    ← valField_toNat]
  rw [if_neg (Nat.not_lt.mpr hfits), if_neg (not_not_intro hcrc), if_neg hhere]
  generalize requestBuf t = buf
  split
  · next hfc =>
    rw [decodeFunction, if_neg hfc]
    exact .inl ⟨.unsupportedFunction, rfl, exec_illegalFunction _⟩
  next hfc =>
  split
  · next hqty =>
    rw [decodeFunction, if_pos (not_not.mp hfc)]
    exact .inl ⟨.illegalDataValue, rfl, exec_wmr_failed (wmrCheck_badQuantity hqty)⟩
  next hqty =>
  rw [decodeFunction_wmr (not_not.mp hfc) (by omega)]
  split
  · next hbc => exact .inl ⟨.illegalDataValue, rfl, exec_wmr_failed (wmrCheck_badByteCount hqty hbc)⟩
  next hbc =>
  split
  · next hstart =>
    exact .inl ⟨.illegalDataAddress, rfl, exec_wmr_failed (wmrCheck_badStart hqty (not_not.mp hbc) hstart)⟩
  next hstart =>
  split
  · next hspill =>
    exact .inl ⟨.illegalDataAddress, rfl, exec_wmr_failed (wmrCheck_spills hqty (not_not.mp hbc) hstart hspill)⟩
  next hspill =>
  split
  · next hvals =>
    have hbad : ∃ v ∈ valFields buf (qtyField buf).toNat, 1023 < v.toNat := by simpa [valFields] using hvals
    exact .inl ⟨.valueOutOfRange, rfl,
      exec_wmr_failed (wmrCheck_badValue hqty (not_not.mp hbc) hstart hspill hbad)⟩
  · next hvals =>
    have hgood : ∀ v ∈ valFields buf (qtyField buf).toNat, v.toNat ≤ 1023 := by simpa [valFields] using hvals
    exact .inr ⟨rfl, exec_wmr_passed ⟨by omega, not_not.mp hbc, by omega, by omega, hgood⟩⟩

/-- What the address of a frame that passed the other two drops decides (R131): NOT_ADDRESSED drops it, and the two
accepting rows hand the function row `bcast` as the comparison of the address with 0x00. -/
theorem coreStep_address_cases {t : State} (hready : FrameReady t) (hfits : (frameOf t).length ≤ 32)
    (hcrc : crc16 (frameOf t) = 0#16) :
    (addrField (requestBuf t) ≠ 0x00#8 ∧ addrField (requestBuf t) ≠ t.cfg.devAddr ∧ coreStep t = .next (loaded t)) ∨
    ((addrField (requestBuf t) = 0x00#8 ∨ addrField (requestBuf t) = t.cfg.devAddr) ∧
      coreStep t =
        exec (functionInstr (loaded t)) ((loaded t).setBcast (addrField (requestBuf t) == 0x00#8))) := by
  have hok : integrityOk (loaded t) = true := by rw [integrityOk_loaded hfits, hcrc, beq_self_eq_true]
  rw [coreStep_ready hready, processFrame_fits hfits]
  obtain ⟨h0, hrow⟩ | ⟨h0, hdev, hrow⟩ | ⟨h0, hdev, hrow⟩ :=
    decodeAddress_cases t.cfg.devAddr (addrField (requestBuf t))
  · exact .inr ⟨.inl h0, by rw [beq_iff_eq.mpr h0]; exact runFrame_acceptBroadcast hok hrow⟩
  · exact .inr ⟨.inr hdev, by rw [beq_false_of_ne h0]; exact runFrame_acceptUnicast hok hrow⟩
  · exact .inl ⟨h0, hdev, runFrame_notAddressed hok hrow⟩

/-- Settles O15, along the priority list: the three drops, then the exception or the commit with its reply, both sent
unless the address is 0x00. -/
theorem frameOutcomeTable : Obligations.FrameOutcomeTable := by
  intro s t hturn hready
  rw [step_coreTurn hturn]
  obtain ⟨hlong, hdrop⟩ | ⟨hfits, hcrc, hdrop⟩ | ⟨hfits, hcrc, -⟩ := frame_cases hready
  · rw [frameOutcome_oversize hlong]
    exact ⟨_, hdrop, rfl, rfl, rfl, rfl⟩
  · rw [frameOutcome_corrupt hfits hcrc]
    exact ⟨_, hdrop, rfl, rfl, rfl, rfl⟩
  obtain ⟨h0, hdev, hdrop⟩ | ⟨haddr, hrun⟩ := coreStep_address_cases hready hfits hcrc
  · rw [frameOutcome_foreign hfits hcrc h0 hdev]
    exact ⟨_, hdrop, rfl, rfl, rfl, rfl⟩
  obtain ⟨e, houtcome, hexec⟩ | ⟨houtcome, hexec⟩ := frameOutcome_addressed hfits hcrc haddr
  · rw [houtcome]
    exact ⟨_, hrun.trans (hexec _), State.respond_fsm _ _, State.respond_rxq _ _,
      wire_of_replied (State.takeException_replied e _), State.takeException_bank e _⟩
  · rw [houtcome]
    refine ⟨_, hrun.trans (hexec _), State.respond_fsm _ _, State.respond_rxq _ _,
      wire_of_replied (State.replySuccess_replied _), ?bank⟩
    case bank =>
      rw [State.replySuccess_bank]
      exact commitBank_written _ _ _ _

end Sys2Proof.Machine
end

section
/-! The writers of the register bank (46_register_bank.md R210, R211): the commit of a granted request, reset, and no
other step. -/
namespace Sys2Proof.Machine

open Sys2Proof.Safety

/-! ### What a step does to the bank -/

/-- A core step that processes no complete frame holds the bank (R111 to R113). -/
theorem coreStep_keeps_bank_or_frameReady {t u : State} (hu : coreStep t = .next u) :
    u.bank = t.bank ∨ FrameReady t := by
  obtain ⟨hstay, -⟩ | ⟨-, -, -, hstart⟩ | ⟨-, -, -, hgrow⟩ | ⟨hready, -⟩ := coreStep_cases t
  · cases hstay.symm.trans hu; exact .inl rfl
  · cases hstart.symm.trans hu; exact .inl rfl
  · cases hgrow.symm.trans hu; exact .inl rfl
  · exact .inr hready

/-- A complete frame holds the bank, or its outcome is success and exactly its slots are written (R230). -/
theorem step_frame_bank {s t u : State} (hturn : coreTurn s = some t) (hready : FrameReady t)
    (hu : step s = .next u) :
    u.bank = t.bank ∨
    (∃ broadcast, frameOutcome t = .success broadcast) ∧
      BankWritten (startField (requestBuf t)) (qtyField (requestBuf t))
        (valFields (requestBuf t) (qtyField (requestBuf t)).toNat) t.bank u.bank := by
  obtain ⟨v, hv, -, -, houtcome⟩ := frameOutcomeTable s t hturn hready
  cases hv.symm.trans hu
  cases hout : frameOutcome t with
  | dropOversize | dropCrc | dropAddress | exception code broadcast =>
    rw [hout] at houtcome
    exact .inl houtcome.2
  | success broadcast =>
    rw [hout] at houtcome
    exact .inr ⟨⟨broadcast, rfl⟩, houtcome.2⟩

/-- A move of the pin clears the bank, or holds it when the pin is low and stays so (R260). -/
theorem setRst_bank {level : Bool} {s u : State} (hu : setRst level s = .next u) :
    u.bank = s.bank ∨ u.bank = Vector.replicate 8 0x0000#16 := by
  obtain ⟨-, h⟩ | ⟨-, -, -, h⟩ | ⟨-, -, -, h⟩ | ⟨-, -, h⟩ := setRst_cases level s
  · cases h.symm.trans hu; exact .inr rfl
  · cases h.symm.trans hu; exact .inr rfl
  · cases h.symm.trans hu
  · cases h.symm.trans hu; exact .inl rfl

theorem coreTurn_bank {s t : State} (h : coreTurn s = some t) : t.bank = s.bank := by rw [coreTurn_eq h]

/-- Settles O40, by the kinds of a step: the core's own step writes the bank only for a complete frame that succeeds,
the pin's move only clears it, and every other move of the environment holds it. -/
theorem onlyCommitAndResetWriteBank : Obligations.OnlyCommitAndResetWriteBank := by
  intro s u h hne
  obtain ⟨t, hturn, hstep⟩ | ⟨bs, rest, -, hstep⟩ | ⟨d, rest, -, hstep⟩ | ⟨i, rest, -, hstep⟩ |
    ⟨level, rest, hpin, hstep⟩ := step_cases s
  · rw [← coreTurn_bank hturn] at hne ⊢
    have hready := (coreStep_keeps_bank_or_frameReady (hstep.symm.trans h)).resolve_left hne
    obtain ⟨hsuccess, hwritten⟩ := (step_frame_bank hturn hready h).resolve_left hne
    exact .inr ⟨t, hturn, hready, hsuccess, hwritten⟩
  · cases hstep.symm.trans h; exact absurd rfl hne
  · cases hstep.symm.trans h; exact absurd rfl hne
  · cases hstep.symm.trans h; exact absurd rfl hne
  · exact .inl ⟨level, rest, hpin, (setRst_bank (hstep.symm.trans h)).resolve_left hne⟩

/-! ### The write enables -/

/-- Slot `i` is enabled exactly when its register address lies in the request's span (R210). -/
theorem writeEnable_eq_true_iff (start qty : Word) (i : Nat) :
    writeEnable start qty i = true ↔ start.toNat ≤ 0x0010 + i ∧ 0x0010 + i < start.toNat + qty.toNat :=
  decide_eq_true_iff

/-- Settles O32: check 4 keeps the span of a granted request below slot 7's address, the slot of the start address is
enabled, and the worked example is evaluated. -/
theorem writeEnablesOfGrantedRequest : Obligations.WriteEnablesOfGrantedRequest := by
  refine ⟨fun start qty bc vals ⟨hqty, _, hstart, hend, _⟩ =>
    ⟨?slot7, start.toNat - 0x0010, by omega, ?first⟩, ?worked⟩
  case slot7 =>
    rw [← Bool.not_eq_true, writeEnable_eq_true_iff]
    omega
  case first =>
    rw [writeEnable_eq_true_iff]
    omega
  case worked => decide

end Sys2Proof.Machine
end

section
/-! The block never stops (60_exceptions.md R233): the totality of a step, with the one refusal at the release of
`rst` (R6; log 5). -/
namespace Sys2Proof.Machine

open Sys2Proof.Safety

/-- A move of the pin has a next state, or it is the refused release of an illegal configuration (R6; log 5). -/
theorem setRst_next_or_refused (level : Bool) (s : State) :
    (∃ u, setRst level s = .next u) ∨
    (level = false ∧ s.rst = true ∧ configLegal s.cfg = false ∧ setRst level s = .refused .illegalConfiguration) := by
  obtain ⟨-, h⟩ | ⟨-, -, -, h⟩ | hrefused | ⟨-, -, h⟩ := setRst_cases level s
  · exact .inl ⟨_, h⟩
  · exact .inl ⟨_, h⟩
  · exact .inr hrefused
  · exact .inl ⟨_, h⟩

/-- Every step has a next state, or it is the refused release of `rst`. -/
theorem step_next_or_refused (s : State) :
    (∃ u, step s = .next u) ∨
    (step s = .refused .illegalConfiguration ∧ s.rst = true ∧ configLegal s.cfg = false ∧
      ∃ rest, s.schedule = .rst false :: rest) := by
  obtain ⟨t, -, hstep⟩ | ⟨bs, rest, -, hstep⟩ | ⟨d, rest, -, hstep⟩ | ⟨i, rest, -, hstep⟩ |
    ⟨level, rest, hpin, hstep⟩ := step_cases s
  · obtain ⟨u, hu, -, -⟩ := coreStep_keeps_inputs t
    exact .inl ⟨u, hstep.trans hu⟩
  · exact .inl ⟨_, hstep⟩
  · exact .inl ⟨_, hstep⟩
  · exact .inl ⟨_, hstep⟩
  · obtain ⟨u, hu⟩ | ⟨rfl, hrst, hillegal, hrefused⟩ := setRst_next_or_refused level { s with schedule := rest }
    · exact .inl ⟨u, hstep.trans hu⟩
    · exact .inr ⟨hstep.trans hrefused, hrst, hillegal, rest, hpin⟩

/-- Every complete frame, dropped or answered, leaves `fsm` in IDLE (R230, R233). -/
theorem step_frame_fsm {s t u : State} (hturn : coreTurn s = some t) (hready : FrameReady t)
    (hu : step s = .next u) : u.fsm = .idle := by
  obtain ⟨v, hv, hidle, -⟩ := frameOutcomeTable s t hturn hready
  cases hv.symm.trans hu
  exact hidle

/-- Settles O43: only the pin's release can be refused, and the outcome of every complete frame ends in IDLE. -/
theorem noInputHaltsTheBlock : Obligations.NoInputHaltsTheBlock :=
  fun s => ⟨step_next_or_refused s, fun _ _ => step_frame_fsm⟩

end Sys2Proof.Machine
end

section
/-! The reset state and the invariant of every reachable state (70_reset_and_hazards.md R260; 46_register_bank.md R212,
R213): each operation of a frame's step keeps it, so a step does, so a run does. -/
namespace Sys2Proof.Safety

open Sys2Proof.Machine

/-! ### The invariant and its bank -/

theorem bankInRange_zero : BankInRange (Vector.replicate 8 0x0000#16) := ⟨fun i => by simp, rfl⟩

/-- A state in IDLE has the invariant when its bank and its two lengths are in range: nothing is counted there. -/
theorem Inv.of_idle {s : State} (hbank : BankInRange s.bank) (hrx : s.rxLen.toNat ≤ 32)
    (htx : s.txLen.toNat = 0 ∨ s.txLen.toNat = 5 ∨ s.txLen.toNat = 8) (hidle : s.fsm = .idle) : Inv s where
  bank := hbank
  rxLen := hrx
  txLen := htx
  counted hwait := nomatch hidle.symm.trans hwait
  held _ := hidle

theorem Inv.of_coreAtReset {s : State} (h : CoreAtReset s) : Inv s := by
  obtain ⟨hbank, hidle, -, -, -, hrx, -, htx, -⟩ := h
  exact .of_idle (hbank ▸ bankInRange_zero) (by simp [hrx]) (.inl (by simp [htx])) hidle

/-- A granted request writes values check 5 admits, and check 4 keeps its span below slot 7 (R165, R166). -/
theorem BankInRange.commit {start qty : Word} {bc : Byte} {vals : List Word} {bank : Bank} (h : BankInRange bank)
    (hw : WritesAllowed start qty bc vals) : BankInRange (commitBank start qty vals bank) := by
  obtain ⟨hrange, hseven⟩ := h
  obtain ⟨-, -, -, hend, hvals⟩ := hw
  have hslot := commitBank_written start qty vals bank
  refine ⟨fun i => ?range, ?seven⟩
  case range =>
    rw [hslot i]
    split
    · rw [List.getD_eq_getElem?_getD]
      cases hget : vals[0x0010 + i.val - start.toNat]? with
      | none => simp
      | some v => exact hvals v (List.mem_of_getElem? hget)
    · exact hrange i
  case seven => exact (hslot 7).trans ((if_neg fun ⟨_, hlt⟩ => Nat.not_lt.mpr hend hlt).trans hseven)

/-! ### The operations keep the invariant -/

section Operations

variable {s : State} (h : Inv s)
include h

/-- Stages P1 to P3 leave the block in IDLE with a frame that fits `RXBUF` (R116, R118). -/
theorem Inv.loaded_fits (hfits : (frameOf s).length ≤ 32) : Inv (loaded s) :=
  .of_idle h.bank ((loaded_rxLen hfits).trans_le hfits) h.txLen rfl

theorem Inv.setBcast (b : Bool) : Inv (s.setBcast b) := ⟨h.bank, h.rxLen, h.txLen, h.counted, h.held⟩

theorem Inv.commit {start qty : Word} {bc : Byte} {vals : List Word} (hw : WritesAllowed start qty bc vals) :
    Inv (s.commit start qty vals) := ⟨h.bank.commit hw, h.rxLen, h.txLen, h.counted, h.held⟩

/-- A reply of five or eight bytes writes nothing else that the invariant speaks of. -/
theorem Inv.replied {reply : List Byte} {t : State} (hr : Replied reply s t)
    (hlen : reply.length = 5 ∨ reply.length = 8) : Inv t := by
  obtain ⟨-, htx, -, hframe⟩ := hr
  rw [hframe]
  exact ⟨h.bank, h.rxLen, .inr (htx ▸ hlen), h.counted, h.held⟩

theorem Inv.takeException (e : ModbusException) : Inv (s.takeException e) :=
  h.replied (s.takeException_replied e) (.inl (exceptionReply_length _ _))

theorem Inv.replySuccess : Inv s.replySuccess := h.replied s.replySuccess_replied (.inr (successReply_length _))

/-- Sampling counts what is there, so the count is at least one when something is (R111, R112). -/
theorem Inv.sample_wait (hrst : s.rst = false) (hpos : 1 ≤ (avail s).toNat) : Inv (s.sample.setFsm .wait) where
  bank := h.bank
  rxLen := h.rxLen
  txLen := h.txLen
  counted _ := ⟨hpos, le_rfl⟩
  held hheld := nomatch hrst.symm.trans hheld

/-- Bytes that arrive do not lower `Avail()` (R40). -/
theorem Inv.receive (bs : List Byte) : Inv (s.receive bs) where
  bank := h.bank
  rxLen := h.rxLen
  txLen := h.txLen
  counted hwait := by
    obtain ⟨hpos, hle⟩ := h.counted hwait
    refine ⟨hpos, hle.trans ?_⟩
    rw [avail_toNat, avail_toNat, State.receive_rxq, List.length_append]
    omega
  held := h.held

theorem Inv.setSchedule (ms : List Move) : Inv { s with schedule := ms } :=
  ⟨h.bank, h.rxLen, h.txLen, h.counted, h.held⟩

theorem Inv.tick (ms : Nat) : Inv (s.tick ms) := ⟨h.bank, h.rxLen, h.txLen, h.counted, h.held⟩

end Operations

/-! ### The step keeps the invariant -/

/-- A complete frame, dropped or answered, keeps the invariant. -/
theorem Inv.coreStep_frame {t u : State} (h : Inv t) (hready : FrameReady t) (hu : coreStep t = .next u) : Inv u := by
  obtain ⟨hdrop, -⟩ | ⟨hdrop, hfits⟩ | ⟨hfits, b, ⟨e, hexc⟩ | ⟨start, qty, bc, vals, -, hw, hok⟩⟩ := frame_result hready
  · cases hdrop.symm.trans hu
    exact .of_idle h.bank h.rxLen h.txLen rfl
  · cases hdrop.symm.trans hu
    exact h.loaded_fits hfits
  · cases hexc.symm.trans hu
    exact ((h.loaded_fits hfits).setBcast b).takeException e
  · cases hok.symm.trans hu
    exact (((h.loaded_fits hfits).setBcast b).commit hw).replySuccess

theorem Inv.coreStep_next {t u : State} (h : Inv t) (hu : coreStep t = .next u) : Inv u := by
  obtain ⟨hstay, -⟩ | ⟨hrst, -, hpending, hstart⟩ | ⟨hrst, hwait, hgrown, hgrow⟩ | ⟨hready, -⟩ := coreStep_cases t
  · cases hstay.symm.trans hu
    exact h
  · cases hstart.symm.trans hu
    exact h.sample_wait hrst (Nat.one_le_iff_ne_zero.mpr fun hzero => hpending (BitVec.eq_of_toNat_eq hzero))
  · cases hgrow.symm.trans hu
    have hmore := (grown_eq_true_iff t).mp hgrown
    have hsampled := h.sample_wait hrst (by omega)
    rwa [State.setFsm, ← hwait] at hsampled
  · exact h.coreStep_frame hready hu

/-- Whatever level the pin takes, a core that a reset has cleared is at its reset values (R260). -/
theorem coreAtReset_coreReset (s : State) (level : Bool) : CoreAtReset { s.coreReset with rst := level } :=
  ⟨rfl, rfl, rfl, rfl, rfl, rfl, rfl, rfl, rfl⟩

theorem Inv.setRst_next {level : Bool} {s u : State} (h : Inv s) (hu : setRst level s = .next u) : Inv u := by
  obtain ⟨-, h1⟩ | ⟨-, -, -, h1⟩ | ⟨-, -, -, h1⟩ | ⟨-, -, h1⟩ := setRst_cases level s
  · cases h1.symm.trans hu
    exact .of_coreAtReset (coreAtReset_coreReset s true)
  · cases h1.symm.trans hu
    exact .of_coreAtReset (coreAtReset_coreReset s false)
  · cases h1.symm.trans hu
  · cases h1.symm.trans hu
    exact h

/-- Settles O37, by the kinds of a step: the core's own step, the three moves of the environment and the pin's. -/
theorem stepKeepsInvariant : Obligations.StepKeepsInvariant := by
  intro s u h hu
  obtain ⟨t, hturn, hstep⟩ | ⟨bs, rest, -, hstep⟩ | ⟨d, rest, -, hstep⟩ | ⟨i, rest, -, hstep⟩ |
    ⟨level, rest, -, hstep⟩ := step_cases s
  · have ht : Inv t := coreTurn_eq hturn ▸ h.setSchedule t.schedule
    exact ht.coreStep_next (hstep.symm.trans hu)
  · cases hstep.symm.trans hu
    exact (h.setSchedule rest).receive bs
  · cases hstep.symm.trans hu
    exact (h.setSchedule rest).tick d
  · cases hstep.symm.trans hu
    exact h.setSchedule rest
  · exact (h.setSchedule rest).setRst_next (hstep.symm.trans hu)

/-! ### Reset and the runs from it -/

/-- Settles O48, field by field. -/
theorem resetValues : Obligations.ResetValues := ⟨rfl, rfl, rfl, rfl, rfl, rfl, rfl, rfl, rfl⟩

/-- Settles O38: the reset values have the invariant. -/
theorem resetHasInvariant : Obligations.ResetHasInvariant := .of_coreAtReset resetValues

/-- Settles O39: the invariant holds at reset and every step keeps it, so the bank of every state of a run is in range. -/
theorem reachableBankInRange : Obligations.ReachableBankInRange := by
  intro s u n hreset hrun
  have hinv : Inv u := run_keeps stepKeepsInvariant (.of_coreAtReset hreset) hrun
  exact hinv.bank

end Sys2Proof.Safety
end

section
/-! The encoding of requests (30_encoding.md R76, R83) and the CRC generator on short inputs (40_crc16.md R101, R105). -/
namespace Sys2Proof.Machine

open Sys2Proof.Safety

/-! ### The operands in the request buffer -/

/-- WMR's operands are the fields of the request buffer, and its function code is 0x10 (R76, R77). -/
theorem operands_of_decodeFunction {buf : RxBuf} {start qty : Word} {bc : Byte} {vals : List Word}
    (h : decodeFunction buf = .wmr start qty bc vals) :
    fcField buf = 0x10#8 ∧ start = startField buf ∧ qty = qtyField buf ∧ bc = bcField buf ∧
      vals = valFields buf (valueCount qty) := by
  have hfc : fcField buf = 0x10#8 := (decodeFunction_eq_wmr_iff buf).mp ⟨start, qty, bc, vals, h⟩
  rw [decodeFunction, if_pos hfc, Instr.wmr.injEq] at h
  obtain ⟨rfl, rfl, rfl, rfl⟩ := h
  exact ⟨hfc, rfl, rfl, rfl, rfl⟩

/-- Settles O3: the operands are the fields of the request buffer after the frame copy, whose byte at an offset is the
frame's own or the stale one; the values' offsets lie within the buffer for a quantity up to 8. -/
theorem operandsAtFixedOffsets : Obligations.OperandsAtFixedOffsets := by
  intro dev stale bytes a start qty bc vals hdecode byteAt
  obtain ⟨-, -, -, hfunction⟩ := decodeFrame_eq_ok_iff.mp hdecode
  obtain ⟨hfc, hstart, hqty, hbc, hvals⟩ := operands_of_decodeFunction hfunction
  have hbyte : ∀ o, o < 32 → rxByte (overlay bytes stale) o = byteAt o := rxByte_overlay bytes stale
  refine ⟨?fc, ?start, ?qty, ?bc, fun hle => ⟨?count, fun k hk => ?value⟩⟩
  case fc => rw [← hbyte 1 (by omega)]; exact hfc
  case start => rw [← hbyte 2 (by omega), ← hbyte 3 (by omega)]; exact hstart
  case qty => rw [← hbyte 4 (by omega), ← hbyte 5 (by omega)]; exact hqty
  case bc => rw [← hbyte 6 (by omega)]; exact hbc
  case count => rw [hvals, valFields_length, valueCount, if_pos hle]
  case value =>
    rw [← hbyte (7 + 2 * k) (by omega), ← hbyte (8 + 2 * k) (by omega), hvals, valueCount, if_pos hle,
      valFields_getD _ _ _ hk]
    rfl

/-! ### The CRC of one and of two bytes -/

/-- A round is linear over XOR: the shift is, and the polynomial is added once for each 1 shifted out (R100). -/
theorem crcRound_xor (c d : Word) : crcRound (c ^^^ d) = crcRound c ^^^ crcRound d := by
  unfold crcRound
  rw [BitVec.getLsbD_xor, BitVec.ushiftRight_xor_distrib]
  cases c.getLsbD 0 with
  | false =>
    cases d.getLsbD 0 with
    | false => rfl
    | true => exact BitVec.xor_assoc ..
  | true =>
    cases d.getLsbD 0 with
    | false =>
      simp only [Bool.xor_false, if_true, Bool.false_eq_true, if_false]
      ac_rfl
    | true =>
      calc c >>> 1 ^^^ d >>> 1
        _ = c >>> 1 ^^^ d >>> 1 ^^^ (0xA001#16 ^^^ 0xA001#16) := by rw [BitVec.xor_self, BitVec.xor_zero]
        _ = (c >>> 1 ^^^ 0xA001#16) ^^^ (d >>> 1 ^^^ 0xA001#16) := by ac_rfl

/-- A linear map that takes only zero to zero is injective. -/
theorem crcRound_injective : Function.Injective crcRound := fun c d h =>
  BitVec.xor_eq_zero_iff.mp ((crcRound_eq_zero_iff _).mp (by rw [crcRound_xor, h, BitVec.xor_self]))

theorem crcRounds_injective (n : Nat) : Function.Injective (crcRounds n) := by
  induction n with
  | zero => exact Function.injective_id
  | succ n ih => exact ih.comp crcRound_injective

/-- The register is a lone byte after eight rounds exactly when it held that byte in bits 15:8 before them. -/
theorem crcRounds_eq_byte_iff (c : Word) (b : Byte) :
    crcRounds 8 c = b.setWidth 16 ↔ c = b.setWidth 16 <<< 8 := by
  have hb := b.isLt
  have hlow : ∀ i, i < 8 → (b.setWidth 16 <<< 8).getLsbD i = false := fun i hi => by simp [hi]
  have hshift : crcRounds 8 (b.setWidth 16 <<< 8) = b.setWidth 16 := by
    rw [crcRounds_shift 8 _ hlow]
    apply BitVec.eq_of_toNat_eq
    simp only [BitVec.toNat_ushiftRight, BitVec.toNat_shiftLeft, BitVec.toNat_setWidth, Nat.shiftLeft_eq,
      Nat.shiftRight_eq_div_pow]
    omega
  conv_lhs => rw [← hshift]
  exact (crcRounds_injective 8).eq_iff

/-- Two bytes bring 0xFFFF to zero exactly when they clear its two halves (R83). -/
theorem crc16_pair_eq_zero_iff (a b : Byte) : crc16 [a, b] = 0#16 ↔ a = 0xFF#8 ∧ b = 0xFF#8 := by
  have ha := a.isLt
  have hb := b.isLt
  calc crc16 [a, b] = 0#16
    _ ↔ crcRounds 8 (0xFFFF#16 ^^^ a.setWidth 16) = b.setWidth 16 := crcByte_eq_zero_iff _ b
    _ ↔ 0xFFFF#16 ^^^ a.setWidth 16 = b.setWidth 16 <<< 8 := crcRounds_eq_byte_iff _ b
    _ ↔ 0xFFFF - a.toNat = b.toNat * 256 := by
      rw [← BitVec.toNat_inj, show 0xFFFF#16 = BitVec.allOnes 16 from rfl, BitVec.allOnes_xor, BitVec.toNat_not]
      simp only [BitVec.toNat_shiftLeft, BitVec.toNat_setWidth, Nat.shiftLeft_eq]
      omega
    _ ↔ a = 0xFF#8 ∧ b = 0xFF#8 := by
      rw [← BitVec.toNat_inj, ← BitVec.toNat_inj, BitVec.toNat_ofNat]
      omega

/-- Settles O5: an oversize frame is rejected before its CRC is looked at; a zero CRC needs two bytes, and two bytes
reach it only by clearing both halves of 0xFFFF. -/
theorem frameLengthLimits : Obligations.FrameLengthLimits := by
  refine ⟨fun dev stale bytes hlong => if_pos hlong, fun a hzero => ?one, fun a b => crc16_pair_eq_zero_iff a b⟩
  case one =>
    obtain ⟨addr, fc, more, hbytes⟩ := exists_cons_cons_of_crc16_eq_zero (bytes := [a]) hzero
    cases hbytes

/-! ### The spec's own examples -/

/-- Settles O7: no round runs on an empty input, and the check value is evaluated. -/
theorem crcEmptyAndCheckValue : Obligations.CrcEmptyAndCheckValue :=
  ⟨fun buf s => by rw [crc16Modbus, List.take_zero]; rfl, by decide +kernel⟩

/-- Settles O2: the four frames are evaluated. -/
theorem specFramesDecode : Obligations.SpecFramesDecode := by
  unfold Obligations.SpecFramesDecode
  decide +kernel

end Sys2Proof.Machine
end

section
/-! The frame assembler (41_frame_assembler.md R112, R113, R116 to R118): growth, silence, and what the step of a complete
frame takes, copies and sends; and that no other step but reset reaches those registers (10_state.md R24 to R28, R40). -/
namespace Sys2Proof.Machine

open Sys2Proof.Safety

/-! ### Growth and silence -/

/-- Settles O10: more bytes than counted is growth, which samples the count and the clock. -/
theorem growthRestartsSilenceTimer : Obligations.GrowthRestartsSilenceTimer := by
  intro s t hturn hrst hwait hmore
  have hgrown : grown t = true := (grown_eq_true_iff t).mpr (by rwa [avail_toNat])
  exact ⟨t.sample, (step_coreTurn hturn).trans (coreStep_grows hrst hwait hgrown), avail_toNat t, rfl⟩

/-- Every complete frame has a next state, in IDLE, without the frame's bytes, with the schedule as it was (R116). -/
theorem coreStep_frame_ends {t : State} (h : FrameReady t) :
    ∃ u, coreStep t = .next u ∧ u.fsm = .idle ∧ u.rxq = leftOver t ∧ u.schedule = t.schedule := by
  obtain ⟨hdrop, -⟩ | ⟨hdrop, -⟩ | ⟨-, b, ⟨e, hexc⟩ | ⟨start, qty, bc, vals, -, -, hok⟩⟩ := frame_result h
  · exact ⟨_, hdrop, rfl, rfl, rfl⟩
  · exact ⟨_, hdrop, rfl, rfl, rfl⟩
  · exact ⟨_, hexc, State.respond_fsm _ _, State.respond_rxq _ _, State.respond_schedule _ _⟩
  · exact ⟨_, hok, State.respond_fsm _ _, State.respond_rxq _ _, State.respond_schedule _ _⟩

/-- Settles O11: without growth the silence test alone decides between waiting unchanged and the end of the frame. -/
theorem silenceTestIsStrictAndModular : Obligations.SilenceTestIsStrictAndModular := by
  intro s t hturn hrst hwait hcounted
  rw [← avail_toNat] at hcounted
  rw [step_coreTurn hturn]
  refine ⟨fun hwithin => ?waits, fun hbeyond => ?ends⟩
  case waits =>
    have hgrown : grown t = false := by rwa [← Bool.not_eq_true, grown_eq_true_iff, Nat.not_lt]
    have hsilent : silent t = false := by rwa [silent_eq_false_iff, elapsed_toNat]
    exact coreStep_waits hrst hwait hgrown hsilent
  case ends =>
    obtain ⟨u, hu, hidle, hrxq, -⟩ := coreStep_frame_ends ⟨hrst, hwait, hcounted, hbeyond⟩
    exact ⟨u, hu, hidle, hrxq⟩

/-! ### A quiet line -/

/-- A quiet line is a list of advances of one millisecond, with a core step after each (R263). -/
theorem quietMoves_eq (n : Nat) : quietMoves n = (List.replicate n 1).flatMap fun d => [.tick d, .core] := by
  rw [quietMoves, List.flatMap_def, List.map_replicate]

theorem quietMoves_length (n : Nat) : (quietMoves n).length = 2 * n := by
  simp [quietMoves, Nat.mul_comm]

theorem quietMoves_add (m n : Nat) : quietMoves (m + n) = quietMoves m ++ quietMoves n := by
  rw [quietMoves, List.replicate_add, List.flatten_append]
  rfl

/-- `n` quiet milliseconds that leave the elapsed time within `T35_MS` only move the clock (R113). -/
theorem runMoves_quiet (n : Nat) (ms rest : List Move) {s : State} (hr : s.rst = false) (hf : s.fsm = .wait)
    (hg : grown s = false) (hle : (elapsed s).toNat + n ≤ s.cfg.t35Ms) :
    runMoves (quietMoves n ++ ms) rest s = runMoves ms rest (s.tick n) := by
  have hsum : (List.replicate n 1).sum = n := by simp
  have hticks := runMoves_ticks (List.replicate n 1) ms rest hr hf hg (by rwa [hsum])
  rwa [← quietMoves_eq, hsum] at hticks

theorem andThen_next (o : Host.Outcome State Fault Refusal) : andThen o .next = o := by
  cases o <;> rfl

/-- The run that takes one move is that move. -/
theorem runMoves_singleton (m : Move) (rest : List Move) (s : State) :
    runMoves [m] rest s = applyMove m { s with schedule := rest } :=
  calc runMoves [m] rest s
    _ = andThen (step { s with schedule := m :: rest }) .next := run_succ 0 _
    _ = step { s with schedule := m :: rest } := andThen_next _
    _ = applyMove m { s with schedule := rest } := step_of_schedule_cons rfl

theorem elapsed_tick_of_sampled {s : State} (h : s.sampleTime = s.now) (ms : Nat) :
    elapsed (s.tick ms) = BitVec.ofNat 32 ms := by
  simp [elapsed, h]

/-- Settles O13: the elapsed time is the number of quiet milliseconds, at which the silence test first holds after
`T35_MS + 1` of them. -/
theorem quietLineEndsTheFrame : Obligations.QuietLineEndsTheFrame := by
  intro s rest hrst hwait hcounted hsampled hbound hschedule
  have hgrown : grown s = false := by rwa [← Bool.not_eq_true, grown_eq_true_iff, Nat.not_lt]
  have helapsed : (elapsed s).toNat = 0 := by simp [elapsed, hsampled]
  refine ⟨fun m hm => ?waits, ?ends⟩
  case waits =>
    have hsplit : s.schedule = quietMoves m ++ (quietMoves (s.cfg.t35Ms + 1 - m) ++ rest) := by
      rw [hschedule, ← List.append_assoc, ← quietMoves_add, Nat.add_sub_cancel' (by omega)]
    have hquiet := runMoves_quiet m [] (quietMoves (s.cfg.t35Ms + 1 - m) ++ rest) hrst hwait hgrown (by omega)
    rw [← quietMoves_length, run_eq_runMoves hsplit, ← List.append_nil (quietMoves m), hquiet]
    exact runMoves_nil _ _
  case ends =>
    set t : State := { s.tick (s.cfg.t35Ms + 1) with schedule := rest }
    have hready : FrameReady t := by
      have htelapsed : elapsed t = BitVec.ofNat 32 (s.cfg.t35Ms + 1) := elapsed_tick_of_sampled hsampled _
      refine ⟨hrst, hwait, hcounted, ?_⟩
      rw [← elapsed_toNat, htelapsed, BitVec.toNat_ofNat, Nat.mod_eq_of_lt hbound]
      exact Nat.lt_succ_self _
    obtain ⟨u, hu, hidle, hrxq, hrest⟩ := coreStep_frame_ends hready
    have hrun : runMoves (quietMoves s.cfg.t35Ms ++ [.tick 1, .core]) rest s = .next u :=
      calc runMoves (quietMoves s.cfg.t35Ms ++ [.tick 1, .core]) rest s
        _ = runMoves [.tick 1, .core] rest (s.tick s.cfg.t35Ms) := runMoves_quiet _ _ _ hrst hwait hgrown (by omega)
        _ = runMoves [.core] rest (s.tick (s.cfg.t35Ms + 1)) := by rw [runMoves_tick, State.tick_tick]
        _ = coreStep t := runMoves_singleton _ _ _
        _ = .next u := hu
    refine ⟨u, ?_, hidle, hrxq, hrest⟩
    rw [← quietMoves_length, run_eq_runMoves hschedule, quietMoves_add]
    exact hrun

/-! ### The frame's bytes -/

/-- Settles O16: more than 32 bytes in the transport make a frame of more than 32, which is dropped before the copy. -/
theorem oversizeFrameIsDropped : Obligations.OversizeFrameIsDropped := by
  intro s t hturn hready hlong
  have hframe : 32 < (frameOf t).length := by rw [frameOf_length, avail_toNat]; omega
  rw [step_coreTurn hturn, coreStep_ready hready, processFrame_oversize hframe]

/-- The step of a frame that fits leaves in `RXBUF` and `rx_len` what the frame copy put there, whatever becomes of the
frame (R118, R134). -/
theorem coreStep_frame_rxbuf {t : State} (h : FrameReady t) (hfits : (frameOf t).length ≤ 32) :
    ∃ u, coreStep t = .next u ∧ u.rxbuf = requestBuf t ∧ u.rxLen.toNat = (frameOf t).length := by
  have hlen := loaded_rxLen hfits
  obtain ⟨-, hlong⟩ | ⟨hdrop, -⟩ | ⟨-, b, ⟨e, hexc⟩ | ⟨start, qty, bc, vals, -, -, hok⟩⟩ := frame_result h
  · omega
  · exact ⟨_, hdrop, rfl, hlen⟩
  · exact ⟨_, hexc, State.respond_rxbuf _ _, (congrArg _ (State.respond_rxLen _ _)).trans hlen⟩
  · exact ⟨_, hok, State.respond_rxbuf _ _, (congrArg _ (State.respond_rxLen _ _)).trans hlen⟩

/-- Settles O17: the frame is all that the transport holds, and the copy puts its bytes at the start of `RXBUF`. -/
theorem frameCopyKeepsTail : Obligations.FrameCopyKeepsTail := by
  intro s t hturn hready hshort
  obtain ⟨u, hu, hbuf, hlen⟩ := coreStep_frame_rxbuf hready (frameOf_length_le hshort)
  have hframe : frameOf t = t.rxq := frameOf_eq (by omega)
  refine ⟨u, (step_coreTurn hturn).trans hu, by rw [hlen, hframe], fun i => ?byte⟩
  case byte => rw [hbuf, requestBuf, hframe, Fin.getElem_fin, overlay_getElem _ _ _ i.isLt, Fin.getElem_fin]

/-! ### The steps that leave the data registers and the transport -/

/-- A core step that processes no complete frame writes nothing but `fsm` and the sample registers (R111 to R113). -/
theorem coreStep_without_frame {t u : State} (hno : ¬ FrameReady t) (hu : coreStep t = .next u) :
    u = { t with fsm := u.fsm, sampleCount := u.sampleCount, sampleTime := u.sampleTime } := by
  obtain ⟨hstay, -⟩ | ⟨-, -, -, hstart⟩ | ⟨-, -, -, hgrow⟩ | ⟨hready, -⟩ := coreStep_cases t
  · cases hstay.symm.trans hu; rfl
  · cases hstart.symm.trans hu; rfl
  · cases hgrow.symm.trans hu; rfl
  · exact absurd hready hno

/-- Settles O45, by the kinds of a step: without a complete frame the core writes none of the data registers, and of the
moves of the environment only the pin's does. -/
theorem onlyFramesAndResetChangeData : Obligations.OnlyFramesAndResetChangeData := by
  intro s u h hno hpin
  obtain ⟨t, hturn, hstep⟩ | ⟨bs, rest, -, hstep⟩ | ⟨d, rest, -, hstep⟩ | ⟨i, rest, -, hstep⟩ |
    ⟨level, rest, hrst, -⟩ := step_cases s
  · rw [coreStep_without_frame (hno t hturn) (hstep.symm.trans h), coreTurn_eq hturn]
    exact ⟨rfl, rfl, rfl, rfl, rfl, rfl, rfl⟩
  · cases hstep.symm.trans h; exact ⟨rfl, rfl, rfl, rfl, rfl, rfl, rfl⟩
  · cases hstep.symm.trans h; exact ⟨rfl, rfl, rfl, rfl, rfl, rfl, rfl⟩
  · cases hstep.symm.trans h; exact ⟨rfl, rfl, rfl, rfl, rfl, rfl, rfl⟩
  · exact absurd hrst (hpin level rest)

/-- The reset pin reaches neither the transport nor the wire (R261). -/
theorem setRst_keeps_environment {level : Bool} {s u : State} (hu : setRst level s = .next u) :
    u.rxq = s.rxq ∧ u.wire = s.wire := by
  obtain ⟨-, h⟩ | ⟨-, -, -, h⟩ | ⟨-, -, -, h⟩ | ⟨-, -, h⟩ := setRst_cases level s
  · cases h.symm.trans hu; exact ⟨rfl, rfl⟩
  · cases h.symm.trans hu; exact ⟨rfl, rfl⟩
  · cases h.symm.trans hu
  · cases h.symm.trans hu; exact ⟨rfl, rfl⟩

/-- Settles O46, by the kinds of a step: a complete frame leaves what `Avail()` did not count, a receive appends its
bytes, every other step keeps the transport. -/
theorem onlyFramesLeaveTheQueue : Obligations.OnlyFramesLeaveTheQueue := by
  intro s u h
  obtain ⟨t, hturn, hstep⟩ | ⟨bs, rest, -, hstep⟩ | ⟨d, rest, -, hstep⟩ | ⟨i, rest, -, hstep⟩ |
    ⟨level, rest, -, hstep⟩ := step_cases s
  · by_cases hready : FrameReady t
    · obtain ⟨v, hv, -, hrxq, -⟩ := coreStep_frame_ends hready
      cases hv.symm.trans (hstep.symm.trans h)
      exact .inr ⟨t, hturn, hready, hrxq⟩
    · refine .inl ⟨[], ?_⟩
      rw [List.append_nil, coreStep_without_frame hready (hstep.symm.trans h), coreTurn_eq hturn]
  · cases hstep.symm.trans h; exact .inl ⟨bs, rfl⟩
  · cases hstep.symm.trans h; exact .inl ⟨[], (List.append_nil _).symm⟩
  · cases hstep.symm.trans h; exact .inl ⟨[], (List.append_nil _).symm⟩
  · obtain ⟨hrxq, -⟩ := setRst_keeps_environment (hstep.symm.trans h)
    exact .inl ⟨[], hrxq.trans (List.append_nil _).symm⟩

/-! ### The broadcast flag -/

theorem exec_functionRow_bcast {f : Instr} {s t : State} (hf : f.isFunctionRow = true) (h : exec f s = .next t) :
    t.bcast = s.bcast := by
  obtain ⟨hframe, -⟩ := functionRowsFrame f s t hf h
  rw [hframe]

/-- The step of a complete frame sets `bcast` exactly for a frame that fits, passes the CRC check and has address 0x00
(R28, R116, R131). -/
theorem coreStep_frame_bcast {t u : State} (hready : FrameReady t) (hu : coreStep t = .next u) :
    u.bcast = true ↔
      (frameOf t).length ≤ 32 ∧ crc16 (frameOf t) = 0#16 ∧ addrField (requestBuf t) = 0x00#8 := by
  obtain ⟨hlong, hdrop⟩ | ⟨-, hcrc, hdrop⟩ | ⟨hfits, hcrc, -⟩ := frame_cases hready
  · cases hdrop.symm.trans hu
    exact iff_of_false Bool.false_ne_true fun ⟨hfits, _, _⟩ => by omega
  · cases hdrop.symm.trans hu
    exact iff_of_false Bool.false_ne_true fun ⟨_, hzero, _⟩ => hcrc hzero
  obtain ⟨haddr, -, hdrop⟩ | ⟨-, hrun⟩ := coreStep_address_cases hready hfits hcrc
  · cases hdrop.symm.trans hu
    exact iff_of_false Bool.false_ne_true fun ⟨_, _, hzero⟩ => haddr hzero
  · rw [exec_functionRow_bcast (functionInstr_wellFormed (loaded t)).1 (hrun.symm.trans hu), State.setBcast_bcast,
      beq_iff_eq]
    exact ⟨fun haddr => ⟨hfits, hcrc, haddr⟩, fun ⟨_, _, haddr⟩ => haddr⟩

/-- Settles O22: a complete frame's step decides the flag by the frame, and a step without one does not write it. -/
theorem broadcastFlagRecomputedPerFrame : Obligations.BroadcastFlagRecomputedPerFrame := by
  intro s u h
  refine ⟨fun t hturn hready => ?frame, fun hno hpin => ?kept⟩
  case frame =>
    have hflag := coreStep_frame_bcast hready ((step_coreTurn hturn).symm.trans h)
    rw [← crc16Modbus_all, addrField_eq] at hflag
    exact Bool.eq_iff_iff.mpr (hflag.trans decide_eq_true_iff.symm)
  case kept =>
    obtain ⟨-, -, -, -, -, hbcast, -⟩ := onlyFramesAndResetChangeData s u h hno hpin
    exact hbcast

/-! ### The reply of a frame -/

/-- A complete frame whose step changes the wire is answered with one reply, whose length its outcome gives (R193,
R194). -/
theorem step_frame_wire {s t u : State} (hturn : coreTurn s = some t) (hready : FrameReady t) (hu : step s = .next u)
    (hne : u.wire ≠ t.wire) :
    ∃ r, u.wire = t.wire ++ r ∧ (frameOutcome t = .success false ∧ r.length = 8 ∨
      ∃ code, frameOutcome t = .exception code false ∧ r.length = 5) := by
  obtain ⟨v, hv, -, -, houtcome⟩ := frameOutcomeTable s t hturn hready
  cases hv.symm.trans hu
  cases hout : frameOutcome t with
  | dropOversize | dropCrc | dropAddress =>
    rw [hout] at houtcome
    exact absurd houtcome.1 hne
  | exception code broadcast =>
    rw [hout] at houtcome
    cases broadcast with
    | true => exact absurd houtcome.1 hne
    | false => exact ⟨_, houtcome.1, .inr ⟨code, rfl, exceptionReply_length _ _⟩⟩
  | success broadcast =>
    rw [hout] at houtcome
    cases broadcast with
    | true => exact absurd houtcome.1 hne
    | false => exact ⟨_, houtcome.1, .inl ⟨rfl, successReply_length _⟩⟩

/-- Settles O41, by the kinds of a step: only the core's own step on a complete frame reaches the wire. -/
theorem atMostOneReplyPerFrame : Obligations.AtMostOneReplyPerFrame := by
  intro s u h hne
  obtain ⟨t, hturn, hstep⟩ | ⟨bs, rest, -, hstep⟩ | ⟨d, rest, -, hstep⟩ | ⟨i, rest, -, hstep⟩ |
    ⟨level, rest, -, hstep⟩ := step_cases s
  · have hwire : t.wire = s.wire := by rw [coreTurn_eq hturn]
    rw [← hwire] at hne ⊢
    by_cases hready : FrameReady t
    · obtain ⟨r, hr, houtcome⟩ := step_frame_wire hturn hready h hne
      exact ⟨t, r, hturn, hready, hr, houtcome⟩
    · exact absurd (congrArg State.wire (coreStep_without_frame hready (hstep.symm.trans h))) hne
  · cases hstep.symm.trans h; exact absurd rfl hne
  · cases hstep.symm.trans h; exact absurd rfl hne
  · cases hstep.symm.trans h; exact absurd rfl hne
  · obtain ⟨-, hwire⟩ := setRst_keeps_environment (hstep.symm.trans h)
    exact absurd hwire hne

end Sys2Proof.Machine
end

section
/-! All or nothing (44_write_multiple_registers.md R168), and the worked write of the vectors (95_test_vectors.md,
V-WMR-1). -/
namespace Sys2Proof.Machine

open Sys2Proof.Safety

/-! ### All or nothing -/

/-- The length of the reply that the response builder leaves in `tx_len`: the payload's and the trailer's (R192). -/
@[simp] theorem State.respond_txLen (p : List Byte) (s : State) :
    (s.respond p).txLen = BitVec.ofNat 4 (p.length + 2) := by simp [State.respond, State.transmit_eq]

@[simp] theorem State.takeException_txLen (e : ModbusException) (s : State) : (s.takeException e).txLen = 5#4 :=
  State.respond_txLen _ s

@[simp] theorem State.replySuccess_txLen (s : State) : s.replySuccess.txLen = 8#4 := State.respond_txLen _ s

/-- The pairs of start and quantity that R168 admits, counted from slot 0 and from quantity 1. -/
theorem admittedPair_iff (start qty : Nat) : (1 ≤ qty ∧ 0x0010 ≤ start ∧ start + qty ≤ 0x0017) ↔
    ∃ i j, i + j ≤ 6 ∧ start = 0x0010 + i ∧ qty = j + 1 := by
  constructor
  · rintro ⟨hqty, hstart, hend⟩
    exact ⟨start - 0x0010, qty - 1, by omega, by omega, by omega⟩
  · rintro ⟨i, j, hsum, rfl, rfl⟩
    omega

/-- Settles O30: a request that every check passes is the commit with the eight-byte reply, any other the five-byte
exception reply; the admitted pairs are counted. -/
theorem wmrAllOrNothing : Obligations.WmrAllOrNothing := by
  refine ⟨fun start qty bc vals s => ?request, admittedPair_iff, ?pairs⟩
  case request =>
    by_cases hw : WritesAllowed start qty bc vals
    · have hwritten := commitBank_written start qty vals s.bank
      exact ⟨_, exec_wmr_passed hw s, fun _ => ⟨by simpa using hwritten, by simp⟩, fun hnot => absurd hw hnot⟩
    · obtain ⟨e, -, hexc⟩ | ⟨hgranted, -⟩ := exec_wmr start qty bc vals s
      · exact ⟨_, hexc, fun hgranted => absurd hgranted hw, fun _ => ⟨by simp, by simp⟩⟩
      · exact absurd hgranted hw
  case pairs => decide

/-! ### The worked write -/

/-- The success reply to a request in the buffer echoes bytes 0 and 2 to 5 of its frame (R171). -/
theorem successReply_overlay (a b c d e f : Byte) (more : List Byte) (stale : RxBuf) :
    successReply (overlay (a :: b :: c :: d :: e :: f :: more) stale) = withTrailer [a, 0x10#8, c, d, e, f] := by
  simp [successReply, overlay_getElem]

/-- A granted request to the block's own address, delivered to any state: the bank is the commit's, and the reply
echoes the request's start and quantity (R116, R170 to R172). -/
theorem step_atFrame_granted {s : State} {start qty : Word} {bc : Byte} {vals : List Word}
    (ht : s.cfg.t35Ms + 1 < 2 ^ 32) (hdev : s.cfg.devAddr ≠ 0x00#8) (hcount : vals.length = valueCount qty)
    (hw : WritesAllowed start qty bc vals) :
    ∃ u, step (s.atFrame (encodeFrame (.acceptUnicast s.cfg.devAddr) (.wmr start qty bc vals))) = .next u ∧
      u.bank = commitBank start qty vals s.bank ∧
      u.wire = s.wire ++ withTrailer [s.cfg.devAddr, 0x10#8, hiByte start, loByte start, hiByte qty, loByte qty] := by
  have hdecode := frameEncodeDecodeAgree s.cfg.devAddr s.rxbuf (.acceptUnicast s.cfg.devAddr) (.wmr start qty bc vals)
    rfl rfl (by simpa [Instr.wellFormed] using hdev) (by simpa [Instr.wellFormed] using hcount)
  obtain ⟨hlen, -⟩ := decodeFrame_eq_ok_iff.mp hdecode
  obtain ⟨t, hturn, hready, hframe, -, rfl⟩ := atFrame_ready _ s (hlen.trans (by decide)) ht
  obtain ⟨hfits, hok, haddr, hfun⟩ := loaded_of_decodeFrame ((congrArg _ hframe).trans hdecode)
  refine ⟨_, ((step_frame_fits hturn hready hfits).trans (runFrame_acceptUnicast hok haddr)).trans
    (hfun ▸ exec_wmr_passed hw _), State.replySuccess_bank _, ?wire⟩
  case wire =>
    rw [State.replySuccess_wire rfl, State.commit_rxbuf, State.setBcast_rxbuf, loaded, requestBuf, hframe]
    exact congrArg _ (successReply_overlay ..)

/-- Settles O53: the worked request is the encoding of a granted write of two values, and the worked reply is its echo
with the CRC. -/
theorem workedWriteExample : Obligations.WorkedWriteExample := by
  intro s hcfg
  have hgranted : WritesAllowed 0x0010#16 2#16 4#8 [100#16, 200#16] := by unfold WritesAllowed; simp
  have hframe : encodeFrame (.acceptUnicast 0x01#8) (.wmr 0x0010#16 2#16 4#8 [100#16, 200#16]) =
      [0x01#8, 0x10#8, 0x00#8, 0x10#8, 0x00#8, 0x02#8, 0x04#8, 0x00#8, 0x64#8, 0x00#8, 0xC8#8, 0xB2#8, 0xEA#8] := by
    decide +kernel
  have hreply : withTrailer [0x01#8, 0x10#8, hiByte 0x0010#16, loByte 0x0010#16, hiByte 2#16, loByte 2#16] =
      [0x01#8, 0x10#8, 0x00#8, 0x10#8, 0x00#8, 0x02#8, 0x40#8, 0x0D#8] := by decide +kernel
  have haddr : s.cfg.devAddr = 0x01#8 := by rw [hcfg]; rfl
  have ht : s.cfg.t35Ms + 1 < 2 ^ 32 := by rw [hcfg]; decide
  obtain ⟨u, hu, hbank, hwire⟩ := step_atFrame_granted ht (by simp [haddr]) rfl hgranted
  have hslot : BankWritten 0x0010#16 2#16 [100#16, 200#16] s.bank u.bank := hbank ▸ commitBank_written _ _ _ _
  rw [haddr, hframe] at hu
  rw [haddr, hreply] at hwire
  refine ⟨u, hu, hslot 0, hslot 1, fun i hi => ?kept, hwire⟩
  case kept => exact (hslot i).trans (if_neg fun ⟨_, hlt⟩ => Nat.not_lt.mpr (Nat.add_le_add_left hi 0x0010) hlt)

end Sys2Proof.Machine
end

section
/-! The reset pin and the configuration it starts the core with (00_scope.md R6, R8; 70_reset_and_hazards.md R260 to R262,
R268). -/
namespace Sys2Proof.Machine

open Sys2Proof.Safety

/-! ### The reset pin -/

/-- While `rst` is asserted the core takes no step (R260). -/
theorem coreStep_held {t : State} (h : t.rst = true) : coreStep t = .next t := if_pos h

theorem setRst_assert (s : State) : setRst true s = .next { s.coreReset with rst := true } := rfl

theorem setRst_release {s : State} (hrst : s.rst = true) (hlegal : configLegal s.cfg = true) :
    setRst false s = .next { s.coreReset with rst := false } := by simp [setRst, hrst, hlegal]

theorem setRst_refused {s : State} (hrst : s.rst = true) (hillegal : configLegal s.cfg = false) :
    setRst false s = .refused .illegalConfiguration := by simp [setRst, hrst, hillegal]

/-- Settles O49: the core's turn while `rst` is held, the release and the assertion, whose moves clear the core's elements
and nothing else. -/
theorem powerOnReset : Obligations.PowerOnReset := by
  refine ⟨fun s t hturn hrst => ?held, fun s rest hrst hlegal hschedule => ?released,
    fun s rest hschedule => ?asserted⟩
  case held => exact (step_coreTurn hturn).trans (coreStep_held hrst)
  case released =>
    exact ⟨_, (step_of_schedule_cons hschedule).trans (setRst_release hrst hlegal),
      coreAtReset_coreReset _ false, rfl, rfl, rfl, rfl, rfl, rfl⟩
  case asserted => exact ⟨_, (step_of_schedule_cons hschedule).trans (setRst_assert _), rfl, rfl, rfl, rfl, rfl, rfl⟩

theorem configLegal_of_zeroAddress {c : Config} (h : c.devAddr = 0x00#8) : configLegal c = false := by
  simp [configLegal, h]

/-- Settles O50: the release of an illegal configuration is refused, and the address 0x00 is illegal. -/
theorem zeroAddressIsRefused : Obligations.ZeroAddressIsRefused := by
  intro s rest hrst haddr hschedule
  exact (step_of_schedule_cons hschedule).trans (setRst_refused hrst (configLegal_of_zeroAddress haddr))

/-! ### The silence threshold -/

/-- The integer quotient of R8 is the rational one rounded up: it is the least multiple of the rate that reaches 38500. -/
theorem ceil_div_eq (n b : Nat) (hb : 1 ≤ b) : ⌈(n : ℚ) / (b : ℚ)⌉ = ((n + b - 1) / b : Nat) := by
  have hpos : (0 : ℚ) < b := by exact_mod_cast hb
  have hreach : n ≤ (n + b - 1) / b * b := by
    have := Nat.div_add_mod (n + b - 1) b
    have := Nat.mod_lt (n + b - 1) hb
    rw [Nat.mul_comm]
    omega
  have hleast : (n + b - 1) / b * b < n + b := by
    have := Nat.div_mul_le_self (n + b - 1) b
    omega
  rw [Int.ceil_eq_iff, lt_div_iff₀ hpos, div_le_iff₀ hpos, Int.cast_natCast, sub_one_mul, sub_lt_iff_lt_add]
  exact ⟨by exact_mod_cast hleast, by exact_mod_cast hreach⟩

/-- Settles O51, by the rounding of the quotient. -/
theorem thresholdFromBaudRate : Obligations.ThresholdFromBaudRate := by
  intro dev baud hbaud
  have hceil : ⌈(38500 : ℚ) / (baud : ℚ)⌉ = ((38500 + baud - 1) / baud : Nat) := ceil_div_eq 38500 baud hbaud
  rw [hceil]
  rfl

/-- Settles O52: the formula is evaluated at the eight rates. -/
theorem thresholdTable : Obligations.ThresholdTable := by
  unfold Obligations.ThresholdTable
  decide

end Sys2Proof.Machine
end
